-- ==== Sys2Proof/Word.lean ====
section
/-! DEFINITION. The value types of the block: bytes, words, addresses in an instruction, register and key numbers. -/

namespace Sys2Proof

/-- One byte: a general register, a timer, a memory cell (R21, R28, R29, R50). -/
abbrev Byte := BitVec 8

/-- One 16-bit word: an instruction word, PC, I, a return address (R25, R26, R27, R70). -/
abbrev Word := BitVec 16

/-- The 12-bit address field nnn of an instruction (R71). -/
abbrev Addr := BitVec 12

/-- A register selector, 0..15; no selector is out of range (R21). -/
abbrev Reg := Fin 16

/-- A slot of the input vector, 0..15 (R31). -/
abbrev Key := Fin 16

/-- The flag register VF = V15 (R22). -/
def vF : Reg := 15

end Sys2Proof
end

