-- ==== Sys2Proof/Config.lean ====
section
/-! DEFINITION. The configuration of a block (R6, R36): what is fixed when the block is constructed, and the free values (draws) of a step. -/

namespace Sys2Proof

/-- MEM_SIZE (R6): addresses 0..4095. -/
abbrev memSize : Nat := 4096

/-- PROGRAM_BASE (R6, R53): the entry point and the load address. -/
abbrev programBase : Nat := 0x200

/-- GLYPH_SIZE (R6): bytes of one font glyph. -/
abbrev glyphSize : Nat := 5

/-- ERROR_POLICY and UNKNOWN_OPCODE_POLICY (R6, R223): halt the block on the error, or skip the instruction. -/
inductive ErrorPolicy where
  | halt
  | skip
  deriving DecidableEq, Repr

/-- RET_EMPTY_POLICY (R6, R120): what 00EE does on an empty stack. -/
inductive RetEmptyPolicy where
  | fault
  | noop
  deriving DecidableEq, Repr

/-- DECODE_5_9 (R6, R77): whether the low nibble of families 5 and 9 must be 0. -/
inductive Decode59 where
  | strict
  | lax
  deriving DecidableEq, Repr

/-- The parameters a block is constructed with (R6).
No instruction reads or writes them as a register, and a reset does not change them (R36). -/
structure Config where
  /-- FONT_BASE; a well-formed configuration has FONT_BASE + 80 ≤ 0x200 (R52). -/
  fontBase : Addr
  /-- FONT_DATA: 16 glyphs of 5 bytes (R55). -/
  fontData : Vector Byte 80
  /-- STACK_DEPTH; none is the unbounded stack (R6, R27). -/
  stackDepth : Option Nat
  /-- SHIFT_QUIRK (R36, R149, R150). -/
  shiftQuirk : Bool
  /-- LOAD_STORE_QUIRK (R36, R174, R175). -/
  loadStoreQuirk : Bool
  /-- ERROR_POLICY (R223). -/
  errorPolicy : ErrorPolicy
  /-- UNKNOWN_OPCODE_POLICY (R223). -/
  unknownOpcodePolicy : ErrorPolicy
  /-- RET_EMPTY_POLICY (R120). -/
  retEmptyPolicy : RetEmptyPolicy
  /-- DECODE_5_9 (R77). -/
  decode59 : Decode59
  /-- IPT, the instructions of one tick; positive in a well-formed configuration (R6, R232). -/
  ipt : Nat
  /-- TICK_RATE in Hz; no rule depends on it (R6, R231). -/
  tickRate : Nat
  deriving DecidableEq, Repr

/-- The free input draw(rand8) of Cxnn (R6, R151): the byte of the n-th draw.
It has no body, so no proof can see a value of it (Log 6). -/
opaque Config.rand8 : Nat → Byte

/-- The free input draw(key_choice) of Fx0A (R6, R195): a number whose remainder picks one of the pressed keys.
It has no body, so no proof can see a value of it (Log 7). -/
opaque Config.keyChoice : Nat → Nat

end Sys2Proof
end

