-- ==== Sys2Proof/Syntax.lean ====
section
/-! DEFINITION. The 34 instructions of the opcode table (R75), one constructor a row, and their spelling. -/

namespace Sys2Proof

/-- An instruction with its operands.
Each operand has the width of its field (R71, R73), so no operand is out of range and every term is an instruction (R21).
x and y are register selectors, nn an 8-bit immediate, nnn a 12-bit address, n a count 0..15. -/
inductive Instr where
  /-- 00E0 (R102). -/
  | cls
  /-- 00EE (R120). -/
  | ret
  /-- 1nnn (R121). -/
  | jp (nnn : Addr)
  /-- 2nnn (R122). -/
  | call (nnn : Addr)
  /-- 3xnn (R123). -/
  | seImm (x : Reg) (nn : Byte)
  /-- 4xnn (R124). -/
  | sneImm (x : Reg) (nn : Byte)
  /-- 5xy0 (R125). -/
  | seReg (x y : Reg)
  /-- 9xy0 (R126). -/
  | sneReg (x y : Reg)
  /-- 6xnn (R140). -/
  | ldImm (x : Reg) (nn : Byte)
  /-- 7xnn (R141). -/
  | addImm (x : Reg) (nn : Byte)
  /-- 8xy0 (R142). -/
  | ldReg (x y : Reg)
  /-- 8xy1 (R143). -/
  | orReg (x y : Reg)
  /-- 8xy2 (R144). -/
  | andReg (x y : Reg)
  /-- 8xy3 (R145). -/
  | xorReg (x y : Reg)
  /-- 8xy4 (R146). -/
  | addReg (x y : Reg)
  /-- 8xy5 (R147). -/
  | sub (x y : Reg)
  /-- 8xy6 (R149). -/
  | shr (x y : Reg)
  /-- 8xy7 (R148). -/
  | subn (x y : Reg)
  /-- 8xyE (R150). -/
  | shl (x y : Reg)
  /-- Annn (R170). -/
  | ldI (nnn : Addr)
  /-- Bnnn (R127). -/
  | jpV0 (nnn : Addr)
  /-- Cxnn (R151). -/
  | rnd (x : Reg) (nn : Byte)
  /-- Dxyn (R103). -/
  | drw (x y : Reg) (n : Fin 16)
  /-- Ex9E (R190). -/
  | skp (x : Reg)
  /-- ExA1 (R191). -/
  | sknp (x : Reg)
  /-- Fx07 (R192). -/
  | ldVxDT (x : Reg)
  /-- Fx0A (R195). -/
  | ldVxK (x : Reg)
  /-- Fx15 (R193). -/
  | ldDTVx (x : Reg)
  /-- Fx18 (R194). -/
  | ldSTVx (x : Reg)
  /-- Fx1E (R171). -/
  | addIVx (x : Reg)
  /-- Fx29 (R172). -/
  | ldFVx (x : Reg)
  /-- Fx33 (R173). -/
  | ldBVx (x : Reg)
  /-- Fx55 (R174). -/
  | ldMemIVx (x : Reg)
  /-- Fx65 (R175). -/
  | ldVxMemI (x : Reg)
  deriving DecidableEq, Repr

/-- The instruction's id in the opcode map (R75). -/
def Instr.mnemonic : Instr → String
  | .cls => "CLS"
  | .ret => "RET"
  | .jp _ => "JP"
  | .call _ => "CALL"
  | .seImm _ _ => "SE.imm"
  | .sneImm _ _ => "SNE.imm"
  | .seReg _ _ => "SE.reg"
  | .sneReg _ _ => "SNE.reg"
  | .ldImm _ _ => "LD.imm"
  | .addImm _ _ => "ADD.imm"
  | .ldReg _ _ => "LD.reg"
  | .orReg _ _ => "OR"
  | .andReg _ _ => "AND"
  | .xorReg _ _ => "XOR"
  | .addReg _ _ => "ADD.reg"
  | .sub _ _ => "SUB"
  | .shr _ _ => "SHR"
  | .subn _ _ => "SUBN"
  | .shl _ _ => "SHL"
  | .ldI _ => "LD.I"
  | .jpV0 _ => "JP.V0"
  | .rnd _ _ => "RND"
  | .drw _ _ _ => "DRW"
  | .skp _ => "SKP"
  | .sknp _ => "SKNP"
  | .ldVxDT _ => "LD.VxDT"
  | .ldVxK _ => "LD.VxK"
  | .ldDTVx _ => "LD.DTVx"
  | .ldSTVx _ => "LD.STVx"
  | .addIVx _ => "ADD.IVx"
  | .ldFVx _ => "LD.FVx"
  | .ldBVx _ => "LD.BVx"
  | .ldMemIVx _ => "LD.mIVx"
  | .ldVxMemI _ => "LD.VxmI"

/-- A register's assembler name, V0..VF (R79). -/
def Reg.asm (r : Reg) : String := "V" ++ String.singleton (Nat.digitChar r.val).toUpper

/-- The assembler spelling of an instruction (the "syntax" column of R75, R79), numbers in decimal.
No rule depends on it. -/
def Instr.asm : Instr → String
  | .cls => "CLS"
  | .ret => "RET"
  | .jp nnn => "JP " ++ toString nnn.toNat
  | .call nnn => "CALL " ++ toString nnn.toNat
  | .seImm x nn => "SE " ++ Reg.asm x ++ ", " ++ toString nn.toNat
  | .sneImm x nn => "SNE " ++ Reg.asm x ++ ", " ++ toString nn.toNat
  | .seReg x y => "SE " ++ Reg.asm x ++ ", " ++ Reg.asm y
  | .sneReg x y => "SNE " ++ Reg.asm x ++ ", " ++ Reg.asm y
  | .ldImm x nn => "LD " ++ Reg.asm x ++ ", " ++ toString nn.toNat
  | .addImm x nn => "ADD " ++ Reg.asm x ++ ", " ++ toString nn.toNat
  | .ldReg x y => "LD " ++ Reg.asm x ++ ", " ++ Reg.asm y
  | .orReg x y => "OR " ++ Reg.asm x ++ ", " ++ Reg.asm y
  | .andReg x y => "AND " ++ Reg.asm x ++ ", " ++ Reg.asm y
  | .xorReg x y => "XOR " ++ Reg.asm x ++ ", " ++ Reg.asm y
  | .addReg x y => "ADD " ++ Reg.asm x ++ ", " ++ Reg.asm y
  | .sub x y => "SUB " ++ Reg.asm x ++ ", " ++ Reg.asm y
  | .shr x y => "SHR " ++ Reg.asm x ++ ", " ++ Reg.asm y
  | .subn x y => "SUBN " ++ Reg.asm x ++ ", " ++ Reg.asm y
  | .shl x y => "SHL " ++ Reg.asm x ++ ", " ++ Reg.asm y
  | .ldI nnn => "LD I, " ++ toString nnn.toNat
  | .jpV0 nnn => "JP V0, " ++ toString nnn.toNat
  | .rnd x nn => "RND " ++ Reg.asm x ++ ", " ++ toString nn.toNat
  | .drw x y n => "DRW " ++ Reg.asm x ++ ", " ++ Reg.asm y ++ ", " ++ toString n.val
  | .skp x => "SKP " ++ Reg.asm x
  | .sknp x => "SKNP " ++ Reg.asm x
  | .ldVxDT x => "LD " ++ Reg.asm x ++ ", DT"
  | .ldVxK x => "LD " ++ Reg.asm x ++ ", K"
  | .ldDTVx x => "LD DT, " ++ Reg.asm x
  | .ldSTVx x => "LD ST, " ++ Reg.asm x
  | .addIVx x => "ADD I, " ++ Reg.asm x
  | .ldFVx x => "LD F, " ++ Reg.asm x
  | .ldBVx x => "LD B, " ++ Reg.asm x
  | .ldMemIVx x => "LD [I], " ++ Reg.asm x
  | .ldVxMemI x => "LD " ++ Reg.asm x ++ ", [I]"

end Sys2Proof
end

