-- ==== Sys2Proof/WellFormed.lean ====
section
/-! DEFINITION. The checks on what the block is given: its configuration (R6, R52) and its instruction words (R75, R76).
The operands of an Instr carry their field's width in their type, so an Instr term has nothing left to check (R21, R73). -/

namespace Sys2Proof

/-- The constraint on the font's place: FONT_BASE + 80 ≤ 0x200 (R52). -/
abbrev Config.fontFits (c : Config) : Prop := c.fontBase.toNat + 80 ≤ programBase

/-- IPT is a positive number (R6). -/
abbrev Config.iptPositive (c : Config) : Prop := 0 < c.ipt

/-- A configuration a block may be constructed with (R6). -/
abbrev Config.wellFormed (c : Config) : Prop := c.fontFits ∧ c.iptPositive

/-- One row of the opcode table: a word belongs to it when its masked bits equal the pattern. -/
structure Row where
  mnemonic : String
  mask     : Word
  pattern  : Word
  deriving DecidableEq, Repr

/-- The word has the row's fixed bits. -/
def Row.admits (r : Row) (w : Word) : Bool := (w &&& r.mask) == r.pattern

/-- The mask of 5xy0 and 9xy0: the low nibble is fixed under strict, free under lax (R77). -/
def Decode59.mask : Decode59 → Word
  | .strict => 0xF00F
  | .lax => 0xF000

/-- The table's rows of families 0 to 7 (R75). -/
def tableLow (d : Decode59) : List Row :=
  [⟨"CLS", 0xFFFF, 0x00E0⟩, ⟨"RET", 0xFFFF, 0x00EE⟩, ⟨"JP", 0xF000, 0x1000⟩, ⟨"CALL", 0xF000, 0x2000⟩,
   ⟨"SE.imm", 0xF000, 0x3000⟩, ⟨"SNE.imm", 0xF000, 0x4000⟩, ⟨"SE.reg", d.mask, 0x5000⟩,
   ⟨"LD.imm", 0xF000, 0x6000⟩, ⟨"ADD.imm", 0xF000, 0x7000⟩]

/-- The table's rows of family 8 (R75). -/
def tableEight : List Row :=
  [⟨"LD.reg", 0xF00F, 0x8000⟩, ⟨"OR", 0xF00F, 0x8001⟩, ⟨"AND", 0xF00F, 0x8002⟩, ⟨"XOR", 0xF00F, 0x8003⟩,
   ⟨"ADD.reg", 0xF00F, 0x8004⟩, ⟨"SUB", 0xF00F, 0x8005⟩, ⟨"SHR", 0xF00F, 0x8006⟩, ⟨"SUBN", 0xF00F, 0x8007⟩,
   ⟨"SHL", 0xF00F, 0x800E⟩]

/-- The table's rows of families 9 to E (R75). -/
def tableHigh (d : Decode59) : List Row :=
  [⟨"SNE.reg", d.mask, 0x9000⟩, ⟨"LD.I", 0xF000, 0xA000⟩, ⟨"JP.V0", 0xF000, 0xB000⟩, ⟨"RND", 0xF000, 0xC000⟩,
   ⟨"DRW", 0xF000, 0xD000⟩, ⟨"SKP", 0xF0FF, 0xE09E⟩, ⟨"SKNP", 0xF0FF, 0xE0A1⟩]

/-- The table's rows of family F (R75). -/
def tableF : List Row :=
  [⟨"LD.VxDT", 0xF0FF, 0xF007⟩, ⟨"LD.VxK", 0xF0FF, 0xF00A⟩, ⟨"LD.DTVx", 0xF0FF, 0xF015⟩,
   ⟨"LD.STVx", 0xF0FF, 0xF018⟩, ⟨"ADD.IVx", 0xF0FF, 0xF01E⟩, ⟨"LD.FVx", 0xF0FF, 0xF029⟩,
   ⟨"LD.BVx", 0xF0FF, 0xF033⟩, ⟨"LD.mIVx", 0xF0FF, 0xF055⟩, ⟨"LD.VxmI", 0xF0FF, 0xF065⟩]

/-- The opcode table: 34 rows (R75), with DECODE_5_9 as given (R77). -/
def opcodeTable (d : Decode59) : List Row := tableLow d ++ tableEight ++ tableHigh d ++ tableF

/-- The word is an instruction: some row of the opcode table admits it (R75, R76).
Written from the table's masks, not from the decoder, so that the two can be held against each other. -/
def Word.wellFormed (d : Decode59) (w : Word) : Bool := (opcodeTable d).any (·.admits w)

/-- The mask and pattern of an instruction's own row, from the table (R75). -/
def Instr.row (d : Decode59) : Instr → Row
  | .cls => ⟨"CLS", 0xFFFF, 0x00E0⟩
  | .ret => ⟨"RET", 0xFFFF, 0x00EE⟩
  | .jp _ => ⟨"JP", 0xF000, 0x1000⟩
  | .call _ => ⟨"CALL", 0xF000, 0x2000⟩
  | .seImm _ _ => ⟨"SE.imm", 0xF000, 0x3000⟩
  | .sneImm _ _ => ⟨"SNE.imm", 0xF000, 0x4000⟩
  | .seReg _ _ => ⟨"SE.reg", d.mask, 0x5000⟩
  | .sneReg _ _ => ⟨"SNE.reg", d.mask, 0x9000⟩
  | .ldImm _ _ => ⟨"LD.imm", 0xF000, 0x6000⟩
  | .addImm _ _ => ⟨"ADD.imm", 0xF000, 0x7000⟩
  | .ldReg _ _ => ⟨"LD.reg", 0xF00F, 0x8000⟩
  | .orReg _ _ => ⟨"OR", 0xF00F, 0x8001⟩
  | .andReg _ _ => ⟨"AND", 0xF00F, 0x8002⟩
  | .xorReg _ _ => ⟨"XOR", 0xF00F, 0x8003⟩
  | .addReg _ _ => ⟨"ADD.reg", 0xF00F, 0x8004⟩
  | .sub _ _ => ⟨"SUB", 0xF00F, 0x8005⟩
  | .shr _ _ => ⟨"SHR", 0xF00F, 0x8006⟩
  | .subn _ _ => ⟨"SUBN", 0xF00F, 0x8007⟩
  | .shl _ _ => ⟨"SHL", 0xF00F, 0x800E⟩
  | .ldI _ => ⟨"LD.I", 0xF000, 0xA000⟩
  | .jpV0 _ => ⟨"JP.V0", 0xF000, 0xB000⟩
  | .rnd _ _ => ⟨"RND", 0xF000, 0xC000⟩
  | .drw _ _ _ => ⟨"DRW", 0xF000, 0xD000⟩
  | .skp _ => ⟨"SKP", 0xF0FF, 0xE09E⟩
  | .sknp _ => ⟨"SKNP", 0xF0FF, 0xE0A1⟩
  | .ldVxDT _ => ⟨"LD.VxDT", 0xF0FF, 0xF007⟩
  | .ldVxK _ => ⟨"LD.VxK", 0xF0FF, 0xF00A⟩
  | .ldDTVx _ => ⟨"LD.DTVx", 0xF0FF, 0xF015⟩
  | .ldSTVx _ => ⟨"LD.STVx", 0xF0FF, 0xF018⟩
  | .addIVx _ => ⟨"ADD.IVx", 0xF0FF, 0xF01E⟩
  | .ldFVx _ => ⟨"LD.FVx", 0xF0FF, 0xF029⟩
  | .ldBVx _ => ⟨"LD.BVx", 0xF0FF, 0xF033⟩
  | .ldMemIVx _ => ⟨"LD.mIVx", 0xF0FF, 0xF055⟩
  | .ldVxMemI _ => ⟨"LD.VxmI", 0xF0FF, 0xF065⟩

end Sys2Proof
end

