-- ==== Sys2Proof/Decode.lean ====
section
/-! DEFINITION. Fields, decoder and encoder of instruction words (R56, R70 to R77). -/

namespace Sys2Proof

/-- The two bytes of a word in the order the hardware stores them: high byte first (R56, R70). -/
def wordBytes (w : Word) : Byte × Byte := (w.extractLsb' 8 8, w.extractLsb' 0 8)

/-- The word of two consecutive bytes, the one at the lower address as bits 15..8 (R56). -/
def joinBytes (hi lo : Byte) : Word := hi ++ lo

/-- op = w[15:12], the instruction family (R71). -/
def opField (w : Word) : Nat := (w.extractLsb' 12 4).toNat

/-- x = w[11:8] (R71). -/
def xField (w : Word) : Reg := (w.extractLsb' 8 4).toFin

/-- y = w[7:4] (R71). -/
def yField (w : Word) : Reg := (w.extractLsb' 4 4).toFin

/-- n = w[3:0] (R71). -/
def nField (w : Word) : Fin 16 := (w.extractLsb' 0 4).toFin

/-- nn = w[7:0] (R71). -/
def nnField (w : Word) : Byte := w.extractLsb' 0 8

/-- nnn = w[11:0] (R71). -/
def nnnField (w : Word) : Addr := w.extractLsb' 0 12

/-- The classes of words that are no instruction, R76 (a) to (e). -/
inductive UnknownClass where
  /-- (a) 0x0000..0x0FFF except 00E0 and 00EE; the historical 0nnn call is here (C1). -/
  | familyZero
  /-- (b) 5xyN or 9xyN with N ≠ 0 under DECODE_5_9 = strict. -/
  | lowNibble
  /-- (c) 8xy8..8xyD and 8xyF. -/
  | familyEight
  /-- (d) ExNN with NN neither 9E nor A1. -/
  | familyE
  /-- (e) FxNN with NN none of the nine. -/
  | familyF
  deriving DecidableEq, Repr

/-- What a word decodes to (R74): exactly one instruction, or Unknown, by name. -/
inductive Decoded where
  | instr (i : Instr)
  | unknown (c : UnknownClass)
  deriving DecidableEq, Repr

/-- Family 0 selects on the whole word (R74, C7). -/
def decodeZero (w : Word) : Decoded :=
  if w = 0x00E0 then .instr .cls
  else if w = 0x00EE then .instr .ret
  else .unknown .familyZero

/-- Family 8 selects on n (R74). -/
def decodeEight (x y : Reg) (n : Nat) : Decoded :=
  match n with
  | 0x0 => .instr (.ldReg x y)
  | 0x1 => .instr (.orReg x y)
  | 0x2 => .instr (.andReg x y)
  | 0x3 => .instr (.xorReg x y)
  | 0x4 => .instr (.addReg x y)
  | 0x5 => .instr (.sub x y)
  | 0x6 => .instr (.shr x y)
  | 0x7 => .instr (.subn x y)
  | 0xE => .instr (.shl x y)
  | _ => .unknown .familyEight

/-- Family E selects on nn (R74). -/
def decodeE (x : Reg) (nn : Nat) : Decoded :=
  match nn with
  | 0x9E => .instr (.skp x)
  | 0xA1 => .instr (.sknp x)
  | _ => .unknown .familyE

/-- Family F selects on nn (R74). -/
def decodeF (x : Reg) (nn : Nat) : Decoded :=
  match nn with
  | 0x07 => .instr (.ldVxDT x)
  | 0x0A => .instr (.ldVxK x)
  | 0x15 => .instr (.ldDTVx x)
  | 0x18 => .instr (.ldSTVx x)
  | 0x1E => .instr (.addIVx x)
  | 0x29 => .instr (.ldFVx x)
  | 0x33 => .instr (.ldBVx x)
  | 0x55 => .instr (.ldMemIVx x)
  | 0x65 => .instr (.ldVxMemI x)
  | _ => .unknown .familyF

/-- Families 5 and 9: the low nibble must be 0, unless DECODE_5_9 is lax (R74, R77). -/
def decodeLowNibble (d : Decode59) (n : Nat) (i : Instr) : Decoded :=
  if n = 0 ∨ d = .lax then .instr i else .unknown .lowNibble

/-- The decoder (R74): total, it reads nothing but the word and DECODE_5_9. -/
def decode (d : Decode59) (w : Word) : Decoded :=
  match opField w with
  | 0x0 => decodeZero w
  | 0x1 => .instr (.jp (nnnField w))
  | 0x2 => .instr (.call (nnnField w))
  | 0x3 => .instr (.seImm (xField w) (nnField w))
  | 0x4 => .instr (.sneImm (xField w) (nnField w))
  | 0x5 => decodeLowNibble d (nField w) (.seReg (xField w) (yField w))
  | 0x6 => .instr (.ldImm (xField w) (nnField w))
  | 0x7 => .instr (.addImm (xField w) (nnField w))
  | 0x8 => decodeEight (xField w) (yField w) (nField w)
  | 0x9 => decodeLowNibble d (nField w) (.sneReg (xField w) (yField w))
  | 0xA => .instr (.ldI (nnnField w))
  | 0xB => .instr (.jpV0 (nnnField w))
  | 0xC => .instr (.rnd (xField w) (nnField w))
  | 0xD => .instr (.drw (xField w) (yField w) (nField w))
  | 0xE => decodeE (xField w) (nnField w).toNat
  | _ => decodeF (xField w) (nnField w).toNat

/-- Why a sequence of bytes gives no instruction. -/
inductive ByteReject where
  /-- Fewer than the two bytes of an instruction (R70). -/
  | truncated
  /-- The first two bytes are an unknown opcode (R76). -/
  | unknown (c : UnknownClass)
  deriving DecidableEq, Repr

/-- The decoder over bytes: it consumes exactly 2 of them, high byte first (R56, R70), and gives back the rest. -/
def decodeBytes (d : Decode59) : List Byte → Except ByteReject (Instr × List Byte)
  | hi :: lo :: rest =>
    match decode d (joinBytes hi lo) with
    | .instr i => .ok (i, rest)
    | .unknown c => .error (.unknown c)
  | [_] => .error .truncated
  | [] => .error .truncated

/-- Format NNN: op[4] nnn[12] (R72). -/
def formNNN (op : BitVec 4) (nnn : Addr) : Word := op ++ nnn

/-- Format XNN: op[4] x[4] nn[8] (R72). -/
def formXNN (op : BitVec 4) (x : Reg) (nn : Byte) : Word := op ++ BitVec.ofFin (w := 4) x ++ nn

/-- Formats XY and XYN: op[4] x[4] y[4] and a last nibble (R72). -/
def formXYN (op : BitVec 4) (x y : Reg) (n : Fin 16) : Word :=
  op ++ BitVec.ofFin (w := 4) x ++ BitVec.ofFin (w := 4) y ++ BitVec.ofFin (w := 4) n

/-- The word of an instruction, from the formats and patterns of R72 and R75. -/
def encode : Instr → Word
  | .cls => 0x00E0
  | .ret => 0x00EE
  | .jp nnn => formNNN 0x1 nnn
  | .call nnn => formNNN 0x2 nnn
  | .seImm x nn => formXNN 0x3 x nn
  | .sneImm x nn => formXNN 0x4 x nn
  | .seReg x y => formXYN 0x5 x y 0x0
  | .sneReg x y => formXYN 0x9 x y 0x0
  | .ldImm x nn => formXNN 0x6 x nn
  | .addImm x nn => formXNN 0x7 x nn
  | .ldReg x y => formXYN 0x8 x y 0x0
  | .orReg x y => formXYN 0x8 x y 0x1
  | .andReg x y => formXYN 0x8 x y 0x2
  | .xorReg x y => formXYN 0x8 x y 0x3
  | .addReg x y => formXYN 0x8 x y 0x4
  | .sub x y => formXYN 0x8 x y 0x5
  | .shr x y => formXYN 0x8 x y 0x6
  | .subn x y => formXYN 0x8 x y 0x7
  | .shl x y => formXYN 0x8 x y 0xE
  | .ldI nnn => formNNN 0xA nnn
  | .jpV0 nnn => formNNN 0xB nnn
  | .rnd x nn => formXNN 0xC x nn
  | .drw x y n => formXYN 0xD x y n
  | .skp x => formXNN 0xE x 0x9E
  | .sknp x => formXNN 0xE x 0xA1
  | .ldVxDT x => formXNN 0xF x 0x07
  | .ldVxK x => formXNN 0xF x 0x0A
  | .ldDTVx x => formXNN 0xF x 0x15
  | .ldSTVx x => formXNN 0xF x 0x18
  | .addIVx x => formXNN 0xF x 0x1E
  | .ldFVx x => formXNN 0xF x 0x29
  | .ldBVx x => formXNN 0xF x 0x33
  | .ldMemIVx x => formXNN 0xF x 0x55
  | .ldVxMemI x => formXNN 0xF x 0x65

/-- The word of nbits bits numbered as the opcode table numbers them, the bits above nbits zero. -/
def tableWord (nbits w : Nat) : Word := BitVec.ofNat 16 (w % 2 ^ nbits)

/-- The instruction the decoder reads from a word of the opcode table, laid out as the hardware stores it.
DECODE_5_9 is strict, as the table's masks are (R77). -/
def decodeTableWord (nbits w : Nat) : Option Instr :=
  let bytes := wordBytes (tableWord nbits w)
  match decodeBytes .strict [bytes.1, bytes.2] with
  | .ok (i, _) => some i
  | .error _ => none

end Sys2Proof
end

