-- ==== Sys2Proof/Machine/Display.lean ====
section
/-! DEFINITION. The display buffer (R30) and the XOR blit with its collision detector (R100, R101, R104). -/

namespace Sys2Proof.Machine

/-- The 64×32 grid: 32 rows of 64 bits, disp[r][c] (R30). -/
abbrev Display := Vector (Vector Bool 64) 32

/-- Every bit 0. -/
def Display.blank : Display := Vector.replicate 32 (Vector.replicate 64 false)

/-- disp[r][c]. -/
def Display.pixel (d : Display) (r : Fin 32) (c : Fin 64) : Bool := d[r.val][c.val]

/-- disp[r][c] <- disp[r][c] XOR 1. -/
def Display.flip (d : Display) (r : Fin 32) (c : Fin 64) : Display :=
  d.set r.val (d[r.val].set c.val (!d.pixel r c) c.isLt) r.isLt

/-- Bit 7 - col of a sprite byte: bit 7 is column offset 0, the leftmost pixel (R101). -/
def spriteBit (b : Byte) (col : Nat) : Bool := b.getLsbD (7 - col)

/-- One pixel of a draw: a set sprite bit flips the display bit it covers and reports a collision if that bit was 1 (R103).
The place is taken mod 32 and mod 64: the display is a torus (R100). -/
def drawPixel (acc : Display × Bool) (row col : Nat) (bit : Bool) : Display × Bool :=
  let r := Fin.ofNat 32 row
  let c := Fin.ofNat 64 col
  if bit then (acc.1.flip r c, acc.2 || acc.1.pixel r c) else acc

/-- One row of a draw: the 8 columns of a sprite byte, left to right (R103). -/
def drawRow (acc : Display × Bool) (row cx : Nat) (b : Byte) : Display × Bool :=
  (List.range 8).foldl (fun a col => drawPixel a row (cx + col) (spriteBit b col)) acc

/-- The rows of a draw from a display row on, top to bottom (R103). -/
def drawRows (cx : Nat) : Display × Bool → Nat → List Byte → Display × Bool
  | acc, _, [] => acc
  | acc, row, b :: bs => drawRows cx (drawRow acc row cx b) (row + 1) bs

/-- The XOR blit at (cx, cy): the new display and the collision output (R103, R104). -/
def drawSprite (d : Display) (cx cy : Nat) (rows : List Byte) : Display × Bool :=
  drawRows cx (d, false) cy rows

end Sys2Proof.Machine
end

