-- ==== Sys2Proof/Machine/Memory.lean ====
section
/-! DEFINITION. The 4096-byte memory (R50 to R54): a list of the bytes that differ from the reset contents, and its read and write. -/

namespace Sys2Proof.Machine

/-- The memory array: addresses strictly rising, and only bytes that differ from what reset put there. -/
abbrev Memory := List Host.Cell

/-- The contents every reset gives an address: FONT_DATA in the font region, 0x00 elsewhere (R38, R55, R261).
It is what an address that the memory does not list reads as. -/
def resetByte (c : Config) (a : Nat) : Byte :=
  if h : c.fontBase.toNat ≤ a ∧ a - c.fontBase.toNat < 80 then c.fontData[a - c.fontBase.toNat]'h.2 else 0

/-- The canonical form: addresses strictly rising, all below 4096, none holding its reset contents. -/
abbrev Memory.wf (c : Config) (m : Memory) : Prop :=
  m.Pairwise (fun p q => p.1 < q.1) ∧ ∀ p ∈ m, p.1 < memSize ∧ p.2 ≠ resetByte c p.1

/-- The byte at an address (R51). -/
def Memory.read (c : Config) : Memory → Nat → Byte
  | [], a => resetByte c a
  | (k, b) :: rest, a => if k = a then b else Memory.read c rest a

/-- Lists a byte at its place, over the byte listed there before. -/
def Memory.insert (a : Nat) (b : Byte) : Memory → Memory
  | [] => [(a, b)]
  | (k, v) :: rest =>
    if a < k then (a, b) :: (k, v) :: rest
    else if a = k then (a, b) :: rest
    else (k, v) :: Memory.insert a b rest

/-- Unlists an address. -/
def Memory.erase (a : Nat) (m : Memory) : Memory := m.filter (fun p => p.1 != a)

/-- Sets the byte at an address in range and keeps the canonical form; beyond 4095 there is no byte to set (R51). -/
def Memory.write (c : Config) (m : Memory) (a : Nat) (b : Byte) : Memory :=
  if memSize ≤ a then m
  else if b = resetByte c a then m.erase a
  else m.insert a b

/-- Sets consecutive bytes from an address on, in ascending order (R56, R176). -/
def Memory.writeList (c : Config) : Memory → Nat → List Byte → Memory
  | m, _, [] => m
  | m, a, b :: bs => Memory.writeList c (m.write c a b) (a + 1) bs

end Sys2Proof.Machine
end

