-- ==== Sys2Proof/Machine/ResetConfig.lean ====
section
/-! DEFINITION. The configuration that the model's own reset state is constructed with (R6; Log 1 to Log 4). -/

namespace Sys2Proof.Machine

/-- The conventional hexadecimal font, the default R55 offers; PRESUMED: from general knowledge, not in the source (Log 3). -/
def conventionalFont : Vector Byte 80 :=
  #v[0xF0, 0x90, 0x90, 0x90, 0xF0,  0x20, 0x60, 0x20, 0x20, 0x70,  0xF0, 0x10, 0xF0, 0x80, 0xF0,
     0xF0, 0x10, 0xF0, 0x10, 0xF0,  0x90, 0x90, 0xF0, 0x10, 0x10,  0xF0, 0x80, 0xF0, 0x10, 0xF0,
     0xF0, 0x80, 0xF0, 0x90, 0xF0,  0xF0, 0x10, 0x20, 0x40, 0x40,  0xF0, 0x90, 0xF0, 0x90, 0xF0,
     0xF0, 0x90, 0xF0, 0x10, 0xF0,  0xF0, 0x90, 0xF0, 0x90, 0x90,  0xE0, 0x90, 0xE0, 0x90, 0xE0,
     0xF0, 0x80, 0x80, 0x80, 0xF0,  0xE0, 0x90, 0x90, 0x90, 0xE0,  0xF0, 0x80, 0xF0, 0x80, 0xF0,
     0xF0, 0x80, 0xF0, 0x80, 0x80]

/-- The defaults of R6; for the parameters R6 leaves OPEN: FONT_BASE as the test vectors use it (DESIGN CHOICE, Log 2),
FONT_DATA as R55 offers it (PRESUMED, Log 3), IPT = 5 (DESIGN CHOICE, Log 4) and TICK_RATE = 60 (PRESUMED, Log 4). -/
def resetConfig : Config where
  fontBase := 0x050
  fontData := conventionalFont
  stackDepth := some 16
  shiftQuirk := false
  loadStoreQuirk := false
  errorPolicy := .halt
  unknownOpcodePolicy := .skip
  retEmptyPolicy := .fault
  decode59 := .strict
  ipt := 5
  tickRate := 60

end Sys2Proof.Machine
end

