-- ==== Sys2Proof/Machine/State.lean ====
section
/-! DEFINITION. The state of the block (R20), error reports (R220, R222), the host's interactions (R235), and reset (R38). -/

namespace Sys2Proof.Machine

/-- The five error conditions (R220). -/
inductive Cause where
  | outOfBounds
  | unknownOpcode
  | programTooLarge
  | stackUnderflow
  | stackOverflow
  deriving DecidableEq, Repr

/-- A run-time error as an instruction or a fetch raises it (R10), with what R220 records of it. -/
inductive RunError where
  /-- The lowest failing byte address, or the key index. -/
  | outOfBounds (addr : Nat)
  | unknownOpcode
  | stackUnderflow
  /-- The return address that could not be pushed. -/
  | stackOverflow (ret : Word)
  deriving DecidableEq, Repr

/-- An error report (R222); its code is a function of its cause (R220). -/
structure ErrorReport where
  cause : Cause
  /-- The address of the instruction. -/
  ia : Word
  /-- The fetched word; none for a fetch error. -/
  word : Option Word
  addr : Option Nat
  deriving DecidableEq, Repr

/-- run_state (R34). -/
inductive RunState where
  | stopped
  | running
  | paused
  | faulted
  deriving DecidableEq, Repr

/-- What the host may do to the block (R235); its ticks are what gives the block its turns. -/
inductive HostEvent where
  | load (bytes : List Byte)
  | run
  | pauseToggle
  | stop
  | setKey (k : Key) (b : Bool)
  | snapshot
  deriving DecidableEq, Repr

/-- The snapshot a host receives (R239). -/
structure Snapshot where
  pc : Word
  i  : Word
  dt : Byte
  st : Byte
  v  : Vector Byte 16
  /-- The full memory array, 4096 bytes. -/
  memory : List Byte
  deriving DecidableEq, Repr

/-- What the host gets back (R235). -/
inductive HostReply where
  /-- A Load was accepted (R262). -/
  | loadAccepted
  /-- A Load was refused; the program's length (R220, R262). -/
  | programTooLarge (length : Nat)
  /-- The sound gate of a tick boundary (R231, R238). -/
  | soundGate (on : Bool)
  /-- The display, emitted at a tick boundary (R237). -/
  | display (grid : Display)
  /-- An answer to Snapshot (R239). -/
  | snapshot (s : Snapshot)
  deriving DecidableEq, Repr

/-- Who moves next: the model's own way to say where a host interaction lands (R235, R236, R240; Log 8). -/
inductive Turn where
  /-- The CPU core executes one instruction. -/
  | instr
  /-- The frame driver ends a tick whose quota is used up, or one that a pause has broken off (R232; Log 9). -/
  | frame
  /-- The host takes an interaction. -/
  | host (e : HostEvent)
  deriving DecidableEq, Repr

/-- The state of a block: R20's tuple, its configuration, and the model's own bookkeeping. -/
structure State where
  /-- The configuration the block was constructed with; nothing changes it (R36; Log 1). -/
  cfg : Config
  /-- mem (R50). -/
  mem : Memory
  /-- V0..VF (R21). -/
  v : Vector Byte 16
  /-- I: 16-bit storage, value 0..4095 (R25). -/
  i : Word
  /-- PC (R26). -/
  pc : Word
  /-- The call stack, its last entry on top (R27). -/
  stack : List Word
  /-- DT (R28). -/
  dt : Byte
  /-- ST (R29). -/
  st : Byte
  /-- disp (R30). -/
  disp : Display
  /-- key[0..15] (R31). -/
  keys : Vector Bool 16
  /-- draw_flag (R32). -/
  drawFlag : Bool
  /-- sound_gate (R33). -/
  soundGate : Bool
  /-- run_state (R34). -/
  runState : RunState
  /-- fault (R35). -/
  fault : Option ErrorReport
  /-- error_log, oldest first (R35). -/
  errorLog : List ErrorReport
  /-- A Load was accepted since the last reset (implied by R234 and R263; Log 17). -/
  loaded : Bool
  /-- The instructions left in the running tick: the loop counter of R232; none between ticks (Log 9). -/
  tickLeft : Option Nat
  /-- What the host got back, oldest first: the model's own field (Log 12). -/
  hostOut : List HostReply
  /-- Who moves next: the model's own field; empty means the core, for ever (Log 8). -/
  turns : List Turn
  /-- How many draws were taken: the model's own field, the argument of the free values (Log 6). -/
  draws : Nat
  deriving DecidableEq, Repr

/-- The reasons the machine stops with a fault. There is none: every error of this block is reported and
then halts it in Faulted or skips the instruction, and both are states (R223, R224). -/
inductive Fault : Type
  deriving DecidableEq, Repr

/-- The reasons the model answers no next state. -/
inductive Refusal where
  /-- exec's arm of an instruction that has no meaning yet (none is left); safe: the run stops. -/
  | notModelled (mnemonic : String)
  /-- A host turn whose event R234 gives no move in this run state raises it; safe: the run stops (Log 11). -/
  | noMove (e : HostEvent) (rs : RunState)
  deriving DecidableEq, Repr

/-- A block right after its construction with a configuration: every component as R38 lists it. -/
def State.construct (c : Config) : State where
  cfg := c
  mem := []
  v := Vector.replicate 16 0
  i := 0
  pc := 0x200
  stack := []
  dt := 0
  st := 0
  disp := Display.blank
  keys := Vector.replicate 16 false
  drawFlag := false
  soundGate := false
  runState := .stopped
  fault := none
  errorLog := []
  loaded := false
  tickLeft := none
  hostOut := []
  turns := []
  draws := 0

/-- The machine right after reset (R38), of a block with the configuration `resetConfig`. -/
def State.reset : State := State.construct resetConfig

end Sys2Proof.Machine
end

