-- ==== Sys2Proof/Machine/Ops.lean ====
section
/-! DEFINITION. The named operations over registers, memory and stack (R9), and `raise` with its dispatch (R10, R223). -/

namespace Sys2Proof.Machine

/-- What an instruction or a step answers. -/
abbrev Out := Host.Outcome State Fault Refusal

/-- Goes on from a next state; a fault or a refusal stays. -/
def andThen (o : Out) (f : State → Out) : Out :=
  match o with
  | .next s => f s
  | .fault r => .fault r
  | .refused r => .refused r

namespace State

/-- V[x] (R9, R21). -/
def getV (s : State) (x : Reg) : Byte := s.v[x.val]

/-- V[x] <- b (R9, R21). -/
def setV (s : State) (x : Reg) (b : Byte) : State := { s with v := s.v.set x.val b x.isLt }

/-- VF <- f, the flag output of an instruction (R11, R22). -/
def setFlag (s : State) (f : Byte) : State := s.setV vF f

/-- I <- a (R9). -/
def setI (s : State) (a : Word) : State := { s with i := a }

/-- PC <- a (R9). -/
def setPc (s : State) (a : Word) : State := { s with pc := a }

/-- DT <- b (R28). -/
def setDt (s : State) (b : Byte) : State := { s with dt := b }

/-- ST <- b (R29). -/
def setSt (s : State) (b : Byte) : State := { s with st := b }

/-- The stack becomes l (R27). -/
def setStack (s : State) (l : List Word) : State := { s with stack := l }

/-- A draw opcode's new display; it fires draw_flag (R105). -/
def setDisp (s : State) (d : Display) : State := { s with disp := d, drawFlag := true }

/-- One draw is taken: the next one is another (R6, R151). -/
def takeDraw (s : State) : State := { s with draws := s.draws + 1 }

/-- mem[a] (R50); a claim reads memory through this. -/
def readByte (s : State) (a : Nat) : Byte := s.mem.read s.cfg a

/-- MemWrite of consecutive bytes from a on (R51, R176). -/
def writeBytes (s : State) (a : Nat) (bs : List Byte) : State := { s with mem := s.mem.writeList s.cfg a bs }

/-- MemRead(a, 1), with its bounds check (R9, R51). -/
def memRead (s : State) (a : Nat) : Except RunError Byte :=
  if a ≤ 4095 then .ok (s.readByte a) else .error (.outOfBounds a)

/-- The stack holds STACK_DEPTH entries (R27); the unbounded stack never does. -/
def stackFull (s : State) : Bool :=
  match s.cfg.stackDepth with
  | none => false
  | some d => s.stack.length == d

/-- push(v): appends v, or raises StackOverflow(v) on a full stack (R27). -/
def push (s : State) (a : Word) : Except RunError State :=
  if s.stackFull then .error (.stackOverflow a) else .ok (s.setStack (s.stack ++ [a]))

/-- pop(): removes and gives the last entry; none on an empty stack (R27). -/
def pop (s : State) : Option (Word × State) :=
  match s.stack.getLast? with
  | none => none
  | some a => some (a, s.setStack s.stack.dropLast)

end State

/-- The cause of a run-time error (R220). -/
def RunError.cause : RunError → Cause
  | .outOfBounds _ => .outOfBounds
  | .unknownOpcode => .unknownOpcode
  | .stackUnderflow => .stackUnderflow
  | .stackOverflow _ => .stackOverflow

/-- The recorded addr of a run-time error (R220). -/
def RunError.addr : RunError → Option Nat
  | .outOfBounds a => some a
  | .unknownOpcode => none
  | .stackUnderflow => none
  | .stackOverflow a => some a.toNat

/-- The code of a cause (R220, D29). -/
def Cause.code : Cause → Nat
  | .outOfBounds => 1
  | .unknownOpcode => 2
  | .programTooLarge => 3
  | .stackUnderflow => 4
  | .stackOverflow => 5

/-- The code of a report (R222). -/
def ErrorReport.code (r : ErrorReport) : Nat := r.cause.code

/-- report(E, ia, w) (R222, R223). -/
def report (e : RunError) (ia : Word) (w : Option Word) : ErrorReport :=
  { cause := e.cause, ia := ia, word := w, addr := e.addr }

/-- The policy of an error raised by Execute (R223). -/
def policyOf (c : Config) : RunError → ErrorPolicy
  | .unknownOpcode => c.unknownOpcodePolicy
  | .outOfBounds _ => c.errorPolicy
  | .stackUnderflow => c.errorPolicy
  | .stackOverflow _ => c.errorPolicy

/-- Taking an error, Dispatch(E, ia, w) of R223: it is reported; under halt it becomes `fault` and the block is Faulted.
Nothing else changes: PC stays as the fetch left it (R10). -/
def dispatch (policy : ErrorPolicy) (e : RunError) (ia : Word) (w : Option Word) (s : State) : State :=
  let r := report e ia w
  match policy with
  | .halt => { s with errorLog := s.errorLog ++ [r], fault := some r, runState := .faulted }
  | .skip => { s with errorLog := s.errorLog ++ [r] }

/-- An error of the fetch at ia: it always halts, and no word was fetched (R80, R223). -/
def raiseFetch (e : RunError) (ia : Word) (s : State) : State := dispatch .halt e ia none s

/-- An error of Execute of the word w: the instruction's address is PC - 2, as PC has passed it (R9, R83, R223).
DESIGN CHOICE (Log 21): with PC below 2, which only ExecuteWord can meet, the spec gives no ia, and PC - 2 is taken in 16 bits. -/
def raiseExecute (e : RunError) (w : Word) (s : State) : State :=
  dispatch (policyOf s.cfg e) e (s.pc - 2) (some w) s

/-- The end of an instruction that may raise: its result, or the error dispatched from the state before it (R10, R223). -/
def conclude (w : Word) (s : State) (r : Except RunError State) : Out :=
  match r with
  | .ok t => .next t
  | .error e => .next (raiseExecute e w s)

end Sys2Proof.Machine
end

