-- ==== Sys2Proof/Machine/Flags.lean ====
section
/-! DEFINITION. The flag outputs, each the byte 0 or 1 that VF receives (R22, R152). -/

namespace Sys2Proof.Machine

/-- A flag as VF stores it: 1 when its condition holds, else 0 (R22). -/
def flagByte (b : Bool) : Byte := if b then 1 else 0

/-- Carry out of bit 7: the exact sum exceeds 255 (R146, R152). -/
def carryFlag (a b : Byte) : Byte := flagByte (decide (a.toNat + b.toNat > 255))

/-- No borrow: the minuend is at least the subtrahend (R147, R148, R152). -/
def notBorrowFlag (minuend subtrahend : Byte) : Byte := flagByte (decide (subtrahend.toNat ≤ minuend.toNat))

/-- The bit a right shift pushes out: bit 0 (R149). -/
def shiftRightFlag (src : Byte) : Byte := flagByte (src.getLsbD 0)

/-- The bit a left shift pushes out: bit 7 (R150). -/
def shiftLeftFlag (src : Byte) : Byte := flagByte (src.getLsbD 7)

/-- A result and its flag: Vx first, VF second, so that VF ends as the flag when x = F (R23). -/
def State.setResultFlag (s : State) (x : Reg) (result flag : Byte) : State := (s.setV x result).setFlag flag

end Sys2Proof.Machine
end

