-- ==== Sys2Proof/Machine/Operands.lean ====
section
/-! DEFINITION. The operand forms of the instructions (R73, R176, R196). -/

namespace Sys2Proof.Machine

/-- zext_16(nnn): an address field as a PC or I value (R73). -/
def zextAddr (nnn : Addr) : Word := nnn.setWidth 16

/-- zext_16 of a register's value (R127). -/
def zextByte (b : Byte) : Word := b.setWidth 16

/-- The effective address of element k: I + k, exact, not wrapped (R176). -/
def State.element (s : State) (k : Nat) : Nat := s.i.toNat + k

/-- n consecutive bytes from address a on lie within memory; no bytes always do (R51, R103, R176). -/
def spanFits (a n : Nat) : Bool := n == 0 || decide (a + n ≤ memSize)

/-- The n bytes at I, I+1, ... (R103, R175). -/
def State.span (s : State) (n : Nat) : List Byte := (List.range n).map (fun k => s.readByte (s.element k))

/-- The registers V0..Vx in order (R174). -/
def State.regsUpTo (s : State) (x : Reg) : List Byte := (List.range (x.val + 1)).map (fun k => s.getV (Fin.ofNat 16 k))

/-- The registers with V0..Vx taken from the bytes at I, I+1, ..., and those above x as they were (R175). -/
def State.loadedRegs (s : State) (x : Reg) : Vector Byte 16 :=
  Vector.ofFn (fun r : Fin 16 => if r ≤ x then s.readByte (s.element r.val) else s.getV r)

/-- I after Fx55 and Fx65: past the range under LOAD_STORE_QUIRK, unchanged otherwise (R174, R175, D21). -/
def State.advanceI (s : State) (x : Reg) : State :=
  if s.cfg.loadStoreQuirk then s.setI (BitVec.ofNat 16 ((s.i.toNat + x.val + 1) % 4096)) else s

/-- The operand of a shift: Vx, or Vy under SHIFT_QUIRK (R149, R150). -/
def State.shiftSource (s : State) (x y : Reg) : Byte := if s.cfg.shiftQuirk then s.getV y else s.getV x

/-- The decimal digits of a byte: hundreds, tens, ones (R173). -/
def bcdDigits (b : Byte) : List Byte :=
  [BitVec.ofNat 8 (b.toNat / 100), BitVec.ofNat 8 (b.toNat / 10 % 10), BitVec.ofNat 8 (b.toNat % 10)]

/-- The address of the glyph of a digit; the digit is not masked (R172, D20). -/
def glyphAddr (c : Config) (digit : Byte) : Word := BitVec.ofNat 16 ((c.fontBase.toNat + glyphSize * digit.toNat) % 4096)

/-- The key a register's full value names, or OutOfBounds of that value above 15 (R196). -/
def keyIndex (b : Byte) : Except RunError Key :=
  if h : b.toNat < 16 then .ok ⟨b.toNat, h⟩ else .error (.outOfBounds b.toNat)

/-- The pressed keys in ascending order (R195). -/
def State.pressed (s : State) : List Key := (List.finRange 16).filter (fun k => s.keys[k.val])

/-- draw(key_choice): a member of the pressed keys, any of them as the choice says; none if no key is pressed (R195). -/
def pickKey (choice : Nat) (pressed : List Key) : Option Key := pressed[choice % pressed.length]?

end Sys2Proof.Machine
end

