-- ==== Sys2Proof/Machine/Alu.lean ====
section
/-! DEFINITION. Register loads, arithmetic, logic, shifts and random: R140 to R153. -/

namespace Sys2Proof.Machine

/-- LD Vx, nn (R140). -/
def execLdImm (x : Reg) (nn : Byte) (s : State) : Out := .next (s.setV x nn)

/-- ADD Vx, nn: no carry flag (R141, R153). -/
def execAddImm (x : Reg) (nn : Byte) (s : State) : Out := .next (s.setV x (s.getV x + nn))

/-- LD Vx, Vy (R142). -/
def execLdReg (x y : Reg) (s : State) : Out := .next (s.setV x (s.getV y))

/-- OR Vx, Vy: VF is not reset (R143, R153). -/
def execOrReg (x y : Reg) (s : State) : Out := .next (s.setV x (s.getV x ||| s.getV y))

/-- AND Vx, Vy: VF is not reset (R144, R153). -/
def execAndReg (x y : Reg) (s : State) : Out := .next (s.setV x (s.getV x &&& s.getV y))

/-- XOR Vx, Vy: VF is not reset (R145, R153). -/
def execXorReg (x y : Reg) (s : State) : Out := .next (s.setV x (s.getV x ^^^ s.getV y))

/-- ADD Vx, Vy with the carry in VF (R146). -/
def execAddReg (x y : Reg) (s : State) : Out :=
  .next (s.setResultFlag x (s.getV x + s.getV y) (carryFlag (s.getV x) (s.getV y)))

/-- SUB Vx, Vy with not-borrow in VF (R147). -/
def execSub (x y : Reg) (s : State) : Out :=
  .next (s.setResultFlag x (s.getV x - s.getV y) (notBorrowFlag (s.getV x) (s.getV y)))

/-- SUBN Vx, Vy: Vy - Vx with not-borrow in VF (R148). -/
def execSubn (x y : Reg) (s : State) : Out :=
  .next (s.setResultFlag x (s.getV y - s.getV x) (notBorrowFlag (s.getV y) (s.getV x)))

/-- SHR Vx, Vy: the source's bit 0 in VF (R149). -/
def execShr (x y : Reg) (s : State) : Out :=
  .next (s.setResultFlag x (s.shiftSource x y >>> 1) (shiftRightFlag (s.shiftSource x y)))

/-- SHL Vx, Vy: the source's bit 7 in VF (R150). -/
def execShl (x y : Reg) (s : State) : Out :=
  .next (s.setResultFlag x (s.shiftSource x y <<< 1) (shiftLeftFlag (s.shiftSource x y)))

/-- RND for a given random byte r: Vx <- r AND nn, and the draw is spent (R151). -/
def rndWith (r : Byte) (x : Reg) (nn : Byte) (s : State) : State := (s.setV x (r &&& nn)).takeDraw

/-- RND Vx, nn: the byte is the free value of this draw (R151; Log 6). -/
def execRnd (x : Reg) (nn : Byte) (s : State) : Out := .next (rndWith (Config.rand8 s.draws) x nn s)

end Sys2Proof.Machine
end

