-- ==== Sys2Proof/Machine/Control.lean ====
section
/-! DEFINITION. Control transfer and skips: R120 to R130. `s.pc` is PC after the fetch (R9). -/

namespace Sys2Proof.Machine

/-- A conditional skip: PC <- pc + 2 when its condition holds (R128).
DESIGN CHOICE (Log 21): with PC above 0xFFFD, which only ExecuteWord can meet, pc + 2 is taken in 16 bits. -/
def State.skipIf (s : State) (cond : Bool) : State := if cond then s.setPc (s.pc + 2) else s

/-- 00EE before its error is dispatched: an empty stack raises StackUnderflow, or does nothing under noop (R120). -/
def returnFrom (s : State) : Except RunError State :=
  match s.pop with
  | some (a, t) => .ok (t.setPc a)
  | none =>
    match s.cfg.retEmptyPolicy with
    | .fault => .error .stackUnderflow
    | .noop => .ok s

/-- RET (R120). -/
def execRet (s : State) : Out := conclude (encode .ret) s (returnFrom s)

/-- JP nnn (R121). -/
def execJp (nnn : Addr) (s : State) : Out := .next (s.setPc (zextAddr nnn))

/-- 2nnn before its error is dispatched: the return address is pc (R122). -/
def callTo (nnn : Addr) (s : State) : Except RunError State :=
  match s.push s.pc with
  | .ok t => .ok (t.setPc (zextAddr nnn))
  | .error e => .error e

/-- CALL nnn (R122). -/
def execCall (nnn : Addr) (s : State) : Out := conclude (encode (.call nnn)) s (callTo nnn s)

/-- SE Vx, nn (R123). -/
def execSeImm (x : Reg) (nn : Byte) (s : State) : Out := .next (s.skipIf (s.getV x == nn))

/-- SNE Vx, nn (R124). -/
def execSneImm (x : Reg) (nn : Byte) (s : State) : Out := .next (s.skipIf (s.getV x != nn))

/-- SE Vx, Vy (R125). -/
def execSeReg (x y : Reg) (s : State) : Out := .next (s.skipIf (s.getV x == s.getV y))

/-- SNE Vx, Vy (R126). -/
def execSneReg (x y : Reg) (s : State) : Out := .next (s.skipIf (s.getV x != s.getV y))

/-- JP V0, nnn: the sum is not reduced mod 4096 (R127). -/
def execJpV0 (nnn : Addr) (s : State) : Out := .next (s.setPc (zextAddr nnn + zextByte (s.getV 0)))

end Sys2Proof.Machine
end

