-- ==== Sys2Proof/Machine/Draw.lean ====
section
/-! DEFINITION. The two display instructions: R102 and R103. -/

namespace Sys2Proof.Machine

/-- CLS (R102). -/
def execCls (s : State) : Out := .next (s.setDisp Display.blank)

/-- The lowest failing address of a sprite read that leaves memory (R103): 4096, or I itself were it beyond memory. -/
def lowestOutside (a : Nat) : Nat := max a memSize

/-- Dxyn before its error is dispatched: the origin and the n sprite bytes are read, then the blit, then VF (R103). -/
def drawBody (x y : Reg) (n : Fin 16) (s : State) : Except RunError State :=
  if spanFits (s.element 0) n.val then
    let drawn := drawSprite s.disp (s.getV x).toNat (s.getV y).toNat (s.span n.val)
    .ok ((s.setDisp drawn.1).setFlag (flagByte drawn.2))
  else .error (.outOfBounds (lowestOutside (s.element 0)))

/-- DRW Vx, Vy, n (R103). -/
def execDrw (x y : Reg) (n : Fin 16) (s : State) : Out := conclude (encode (.drw x y n)) s (drawBody x y n s)

end Sys2Proof.Machine
end

