-- ==== Sys2Proof/Machine/Index.lean ====
section
/-! DEFINITION. The index register and the memory transfers: R170 to R176. -/

namespace Sys2Proof.Machine

/-- LD I, nnn (R170). -/
def execLdI (nnn : Addr) (s : State) : Out := .next (s.setI (zextAddr nnn))

/-- ADD I, Vx: mod 4096, no flag (R171). -/
def execAddIVx (x : Reg) (s : State) : Out :=
  .next (s.setI (BitVec.ofNat 16 ((s.i.toNat + (s.getV x).toNat) % 4096)))

/-- LD F, Vx (R172). -/
def execLdFVx (x : Reg) (s : State) : Out := .next (s.setI (glyphAddr s.cfg (s.getV x)))

/-- Fx33 before its error is dispatched: three digits, or none (R173). -/
def bcdBody (x : Reg) (s : State) : Except RunError State :=
  if spanFits (s.element 0) 3 then .ok (s.writeBytes (s.element 0) (bcdDigits (s.getV x)))
  else .error (.outOfBounds 4096)

/-- LD B, Vx (R173). -/
def execLdBVx (x : Reg) (s : State) : Out := conclude (encode (.ldBVx x)) s (bcdBody x s)

/-- Fx55 before its error is dispatched: V0..Vx, or none of them (R174). -/
def storeBody (x : Reg) (s : State) : Except RunError State :=
  if spanFits (s.element 0) (x.val + 1) then .ok ((s.writeBytes (s.element 0) (s.regsUpTo x)).advanceI x)
  else .error (.outOfBounds 4096)

/-- LD [I], Vx (R174). -/
def execLdMemIVx (x : Reg) (s : State) : Out := conclude (encode (.ldMemIVx x)) s (storeBody x s)

/-- Fx65 before its error is dispatched: all bytes are read before any register is written (R175). -/
def loadBody (x : Reg) (s : State) : Except RunError State :=
  if spanFits (s.element 0) (x.val + 1) then .ok (State.advanceI { s with v := s.loadedRegs x } x)
  else .error (.outOfBounds 4096)

/-- LD Vx, [I] (R175). -/
def execLdVxMemI (x : Reg) (s : State) : Out := conclude (encode (.ldVxMemI x)) s (loadBody x s)

end Sys2Proof.Machine
end

