-- ==== Sys2Proof/Machine/Keys.lean ====
section
/-! DEFINITION. Key input and timer access: R190 to R196. -/

namespace Sys2Proof.Machine

/-- Ex9E before its error is dispatched (R190). -/
def skipPressed (x : Reg) (s : State) : Except RunError State :=
  match keyIndex (s.getV x) with
  | .ok k => .ok (s.skipIf s.keys[k.val])
  | .error e => .error e

/-- SKP Vx (R190). -/
def execSkp (x : Reg) (s : State) : Out := conclude (encode (.skp x)) s (skipPressed x s)

/-- ExA1 before its error is dispatched (R191). -/
def skipReleased (x : Reg) (s : State) : Except RunError State :=
  match keyIndex (s.getV x) with
  | .ok k => .ok (s.skipIf (!s.keys[k.val]))
  | .error e => .error e

/-- SKNP Vx (R191). -/
def execSknp (x : Reg) (s : State) : Out := conclude (encode (.sknp x)) s (skipReleased x s)

/-- LD Vx, DT (R192). -/
def execLdVxDT (x : Reg) (s : State) : Out := .next (s.setV x s.dt)

/-- LD DT, Vx (R193). -/
def execLdDTVx (x : Reg) (s : State) : Out := .next (s.setDt (s.getV x))

/-- LD ST, Vx: the sound gate waits for the tick boundary (R194). -/
def execLdSTVx (x : Reg) (s : State) : Out := .next (s.setSt (s.getV x))

/-- Fx0A for a given choice: a pressed key's index goes to Vx and the draw is spent; with no key pressed PC is rewound
by 2, so that the same Fx0A is fetched again (R195). DESIGN CHOICE (Log 21): with PC below 2, which only ExecuteWord can
meet, the spec gives no PC, and PC - 2 is taken in 16 bits. -/
def pollKey (choice : Nat) (x : Reg) (s : State) : State :=
  match pickKey choice s.pressed with
  | some k => (s.setV x (BitVec.ofNat 8 k.val)).takeDraw
  | none => s.setPc (s.pc - 2)

/-- LD Vx, K: the choice is the free value of this draw (R195; Log 7). -/
def execLdVxK (x : Reg) (s : State) : Out := .next (pollKey (Config.keyChoice s.draws) x s)

end Sys2Proof.Machine
end

