-- ==== Sys2Proof/Machine/Cycle.lean ====
section
/-! DEFINITION. The fetch/decode/execute cycle: R80 to R83. -/

namespace Sys2Proof.Machine

/-- The word at PC, high byte first, as it stands in memory (R56). -/
def State.fetchWord (s : State) : Word := joinBytes (s.readByte s.pc.toNat) (s.readByte (s.pc.toNat + 1))

/-- Fetch(): both bytes are checked, the lower address first; PC advances by 2 (R80, R226). -/
def fetch (s : State) : Except RunError (Word × State) :=
  match s.memRead s.pc.toNat with
  | .error e => .error e
  | .ok hi =>
    match s.memRead (s.pc.toNat + 1) with
    | .error e => .error e
    | .ok lo => .ok (joinBytes hi lo, s.setPc (s.pc + 2))

/-- Execute(PC - 2, w): the decoded instruction, or UnknownOpcode (R81). -/
def execute (w : Word) (s : State) : Out :=
  match decode s.cfg.decode59 w with
  | .instr i => exec i s
  | .unknown _ => .next (raiseExecute .unknownOpcode w s)

/-- ExecuteWord(w): a test interface; no fetch, PC is not advanced (R83).
DESIGN CHOICE (Log 21): where PC - 2 or PC + 2 then leaves 16 bits, it is taken mod 65536. -/
def executeWord (w : Word) (s : State) : Out := execute w s

/-- Step(): fetch, then execute; each may raise an error, which is dispatched (R82). -/
def cycle (s : State) : Out :=
  match fetch s with
  | .error e => .next (raiseFetch e s.pc s)
  | .ok (w, t) => execute w t

/-- A word placed where the next fetch reads it: at PC, or at 0x200 when PC leaves no room for two bytes. -/
def placeWord (w : Word) (s : State) : State :=
  let a : Word := if s.pc.toNat ≤ 4094 then s.pc else 0x200
  (s.setPc a).writeBytes a.toNat [(wordBytes w).1, (wordBytes w).2]

/-- The block set so that its very next step is the core's: Running after a load, no error held, no turn planned. -/
def readyToRun (s : State) : State :=
  { s with runState := .running, fault := none, loaded := true, turns := [] }

end Sys2Proof.Machine
end

