-- ==== Sys2Proof/Machine/FrameDriver.lean ====
section
/-! DEFINITION. The frame driver: quota, timer countdown, sound gate and display emission (R231, R232, R237, R238). -/

namespace Sys2Proof.Machine

/-- A timer's countdown with a floor at 0 (R231). -/
def countDown (b : Byte) : Byte := if b = 0 then 0 else b - 1

/-- The tick boundary of a Running block: the countdown, the sound gate from the new ST, and the display if draw_flag
holds, which is then cleared (R231, R232, R237, R238). -/
def tickBoundary (s : State) : State :=
  let gate := decide (countDown s.st ≠ 0)
  { s with
    dt := countDown s.dt
    st := countDown s.st
    soundGate := gate
    hostOut := s.hostOut ++ [.soundGate gate] ++ (if s.drawFlag then [.display s.disp] else [])
    drawFlag := false
    tickLeft := none }

/-- Up to k steps, ended early by a halt or a pause: the loop of R232. -/
def quotaLoop : Nat → State → Out
  | 0, s => .next s
  | k + 1, s =>
    match s.runState with
    | .running => andThen (cycle s) (quotaLoop k)
    | .stopped => .next s
    | .paused => .next s
    | .faulted => .next s

/-- Tick() as R232 writes it, undisturbed by the host. -/
def tick (s : State) : Out :=
  match s.runState with
  | .running =>
    andThen (quotaLoop s.cfg.ipt s) fun t =>
      match t.runState with
      | .running => .next (tickBoundary t)
      | .stopped => .next t
      | .paused => .next t
      | .faulted => .next t
  | .stopped => .next s
  | .paused => .next s
  | .faulted => .next s

/-- A tick whose quota is used up ends, if the block is still Running (R232). -/
def closeTick (s : State) : State :=
  if s.tickLeft = some 0 ∧ s.runState = .running then tickBoundary s else s

/-- One instruction is taken from the running tick's quota; between ticks, from a new tick's (R232). -/
def takeFromQuota (s : State) : State := { s with tickLeft := some (s.tickLeft.getD s.cfg.ipt - 1) }

/-- After an instruction: a halt ends the quota (R232, D33); a used-up quota ends the tick at once, unless the plan
gives the host or the frame driver the next turn, which then comes before the boundary (Log 9). -/
def settle (s : State) : State :=
  match s.runState with
  | .running =>
    match s.turns with
    | [] => closeTick s
    | .instr :: _ => closeTick s
    | .frame :: _ => s
    | .host _ :: _ => s
  | .stopped => { s with tickLeft := none }
  | .paused => { s with tickLeft := none }
  | .faulted => { s with tickLeft := none }

/-- The core's turn: in Running one step (R82), after a boundary that is still due; in every other run state no step,
and a tick that may be in progress ends (R224, R232, R233). -/
def coreTurn (s : State) : Out :=
  match s.runState with
  | .running => andThen (cycle (takeFromQuota (closeTick s))) (fun t => .next (settle t))
  | .stopped => .next { s with tickLeft := none }
  | .paused => .next { s with tickLeft := none }
  | .faulted => .next { s with tickLeft := none }

/-- The frame driver's turn, its test of run_state after the quota (R232): in Running the boundary of a tick whose quota is
used up; in every other run state a tick that may be in progress ends with no countdown and no emission, and no later
turn makes up for it (R233, D33). -/
def frameTurn (s : State) : State :=
  match s.runState with
  | .running => closeTick s
  | .stopped => { s with tickLeft := none }
  | .paused => { s with tickLeft := none }
  | .faulted => { s with tickLeft := none }

end Sys2Proof.Machine
end

