-- ==== Sys2Proof/Machine/HostEvents.lean ====
section
/-! DEFINITION. The host's interactions and the run-state machine: R234, R235, R239, R260 to R263. -/

namespace Sys2Proof.Machine

/-- Reset() of a block (R261): every component takes its reset value; the configuration and error_log are not touched.
What the host got back, the plan of turns and the count of draws are not the block's own either. -/
def resetBlock (s : State) : State :=
  { State.construct s.cfg with errorLog := s.errorLog, hostOut := s.hostOut, turns := s.turns, draws := s.draws }

/-- The host gets a reply. -/
def State.reply (s : State) (r : HostReply) : State := { s with hostOut := s.hostOut ++ [r] }

/-- Load(bytes) in Stopped (R262): an oversize program changes no block state; else the bytes go to 0x200 on. -/
def loadProgram (bytes : List Byte) (s : State) : State :=
  if bytes.length + programBase > memSize then s.reply (.programTooLarge bytes.length)
  else State.reply { s.writeBytes programBase bytes with loaded := true } .loadAccepted

/-- SetKey(k, b) (R235, R236). -/
def setKey (k : Key) (b : Bool) (s : State) : State := { s with keys := s.keys.set k.val b k.isLt }

/-- The snapshot of a state (R239). -/
def snapshotOf (s : State) : Snapshot where
  pc := s.pc
  i := s.i
  dt := s.dt
  st := s.st
  v := s.v
  memory := (List.range memSize).map s.readByte

/-- A host interaction (R234, R235); an event that the run state gives no move is refused by name (Log 11). -/
def hostTurn (e : HostEvent) (s : State) : Out :=
  match e, s.runState with
  | .load bytes, .stopped => .next (loadProgram bytes s)
  | .run, .stopped => if s.loaded then .next { s with runState := .running } else .refused (.noMove e s.runState)
  | .pauseToggle, .running => .next { s with runState := .paused }
  | .pauseToggle, .paused => .next { s with runState := .running }
  | .stop, _ => .next (resetBlock s)
  | .setKey k b, _ => .next (setKey k b s)
  | .snapshot, _ => .next (s.reply (.snapshot (snapshotOf s)))
  | .load _, _ => .refused (.noMove e s.runState)
  | .run, _ => .refused (.noMove e s.runState)
  | .pauseToggle, _ => .refused (.noMove e s.runState)

/-- The next move, by whoever has the next turn; with no turn planned it is the core's (Log 8). -/
def nextTurn (s : State) : Out :=
  match s.turns with
  | [] => coreTurn s
  | .instr :: rest => coreTurn { s with turns := rest }
  | .frame :: rest => .next (frameTurn { s with turns := rest })
  | .host e :: rest => hostTurn e { s with turns := rest }

end Sys2Proof.Machine
end

