-- ==== Sys2Proof/Machine/Step.lean ====
section
/-! DEFINITION. The step of the machine (R82, R232, R235), and the placing of an instruction where it is fetched next. -/

namespace Sys2Proof.Machine

/-- One step: one instruction of a Running block, with the tick boundary it may complete; or one move of the host. -/
def step (s : State) : Host.Outcome State Fault Refusal := nextTurn s

/-- The state with a word of the opcode table stored where the next step fetches, and the block set to run it (Log 14). -/
def State.withFetchWord (s : State) (nbits w : Nat) : State := readyToRun (placeWord (tableWord nbits w) s)

end Sys2Proof.Machine
end

