-- ==== Sys2Proof/Safety.lean ====
section
/-! DEFINITION. The terms of the claims: safe runs and how a run ends (R224, R270), the invariant of the block, frames, and which registers an instruction reads and writes (R24). -/

namespace Sys2Proof.Machine

/-! ### Runs -/

/-- The block has not failed: it is not Faulted (R224, R270 (b)). -/
abbrev State.Safe (s : State) : Prop := s.runState ≠ .faulted

/-- The normal end at address a: a Running block whose next fetch is a jump to itself at a (R270 (a)). -/
abbrev State.AtEnd (s : State) (a : Addr) : Prop :=
  s.runState = .running ∧ s.pc = zextAddr a ∧ a.toNat ≤ 4094 ∧ s.fetchWord = encode (.jp a)

/-- The hang of a key wait: a Running block whose next fetch is an Fx0A while no key is pressed (R270 (c)). -/
abbrev State.WaitsForKey (s : State) (x : Reg) : Prop :=
  s.runState = .running ∧ s.pc.toNat ≤ 4094 ∧ s.fetchWord = encode (.ldVxK x) ∧ ∀ k : Key, s.keys[k.val] = false

/-- The calls of a list of targets, one after the other (R130). -/
def callAll : List Addr → State → Out
  | [], s => .next s
  | a :: as, s => andThen (exec (.call a) s) (callAll as)

/-- n returns, one after the other (R130). -/
def returnAll : Nat → State → Out
  | 0, s => .next s
  | n + 1, s => andThen (exec .ret s) (returnAll n)

/-! ### The invariant -/

/-- The stack holds at most STACK_DEPTH entries (R27). -/
abbrev State.stackBounded (s : State) : Prop := ∀ d, s.cfg.stackDepth = some d → s.stack.length ≤ d

/-- What holds of every state of a block: memory is in canonical form; I is an address (R25); the stack is within its
bound, and no return address exceeds 4096 (R27, R120); PC is at most 0x10FE (R26); `fault` holds a report exactly in
Faulted, and it is one of error_log (R35); a block that is not Stopped was loaded (R234); ProgramTooLarge is never
logged (R262). -/
structure State.Inv (s : State) : Prop where
  memWf : s.mem.wf s.cfg
  iInRange : s.i.toNat ≤ 4095
  stackDepth : s.stackBounded
  stackValues : ∀ a ∈ s.stack, a.toNat ≤ 4096
  pcInRange : s.pc.toNat ≤ 0x10FE
  faultIffFaulted : s.fault.isSome = true ↔ s.runState = .faulted
  faultLogged : ∀ r, s.fault = some r → r ∈ s.errorLog
  runsLoaded : s.runState ≠ .stopped → s.loaded = true
  neverTooLarge : ∀ r ∈ s.errorLog, r.cause ≠ .programTooLarge

/-! ### Frames: what a state after an instruction shares with the state before it -/

/-- Every register but those in P reads as before. -/
def SameRegsExcept (P : Reg → Prop) (s t : State) : Prop := ∀ r, ¬ P r → t.getV r = s.getV r

/-- Every register reads as before. -/
def SameRegs (s t : State) : Prop := ∀ r, t.getV r = s.getV r

/-- Every byte of memory reads as before. -/
def SameMem (s t : State) : Prop := ∀ a, t.readByte a = s.readByte a

/-- Every byte outside the n bytes from a on reads as before. -/
def SameMemOutside (a n : Nat) (s t : State) : Prop := ∀ a', a' < a ∨ a + n ≤ a' → t.readByte a' = s.readByte a'

/-- Both timers are as before. -/
def SameTimers (s t : State) : Prop := t.dt = s.dt ∧ t.st = s.st

/-- Every pixel and draw_flag are as before. -/
def SameDisplay (s t : State) : Prop := (∀ r c, t.disp.pixel r c = s.disp.pixel r c) ∧ t.drawFlag = s.drawFlag

/-- What no completing instruction touches: configuration, keys, sound gate, run state, errors, and the bookkeeping. -/
def SameBlock (s t : State) : Prop :=
  t.cfg = s.cfg ∧ t.keys = s.keys ∧ t.soundGate = s.soundGate ∧ t.runState = s.runState ∧ t.fault = s.fault ∧
  t.errorLog = s.errorLog ∧ t.loaded = s.loaded ∧ t.tickLeft = s.tickLeft ∧ t.hostOut = s.hostOut ∧ t.turns = s.turns

/-- Nothing but the registers in P changes, the count of draws apart. -/
def OnlyRegs (P : Reg → Prop) (s t : State) : Prop :=
  SameRegsExcept P s t ∧ SameMem s t ∧ t.i = s.i ∧ t.pc = s.pc ∧ t.stack = s.stack ∧ SameTimers s t ∧
  SameDisplay s t ∧ SameBlock s t

/-- Nothing but PC changes. -/
def OnlyPc (s t : State) : Prop :=
  SameRegs s t ∧ SameMem s t ∧ t.i = s.i ∧ t.stack = s.stack ∧ SameTimers s t ∧ SameDisplay s t ∧
  t.draws = s.draws ∧ SameBlock s t

/-- Nothing but PC and the stack changes. -/
def OnlyPcAndStack (s t : State) : Prop :=
  SameRegs s t ∧ SameMem s t ∧ t.i = s.i ∧ SameTimers s t ∧ SameDisplay s t ∧ t.draws = s.draws ∧ SameBlock s t

/-- Nothing but I changes. -/
def OnlyI (s t : State) : Prop :=
  SameRegs s t ∧ SameMem s t ∧ t.pc = s.pc ∧ t.stack = s.stack ∧ SameTimers s t ∧ SameDisplay s t ∧
  t.draws = s.draws ∧ SameBlock s t

/-- Nothing but I and the n bytes from a on changes. -/
def OnlyIAndBytes (a n : Nat) (s t : State) : Prop :=
  SameRegs s t ∧ SameMemOutside a n s t ∧ t.pc = s.pc ∧ t.stack = s.stack ∧ SameTimers s t ∧ SameDisplay s t ∧
  t.draws = s.draws ∧ SameBlock s t

/-- The error with report r is taken under policy p, and nothing else changes (R10, R223). -/
def ErrorTaken (p : ErrorPolicy) (r : ErrorReport) (s t : State) : Prop :=
  t.errorLog = s.errorLog ++ [r] ∧
  (p = .halt → t.fault = some r ∧ t.runState = .faulted) ∧
  (p = .skip → t.fault = s.fault ∧ t.runState = s.runState) ∧
  SameRegs s t ∧ SameMem s t ∧ t.i = s.i ∧ t.pc = s.pc ∧ t.stack = s.stack ∧ SameTimers s t ∧ SameDisplay s t ∧
  t.draws = s.draws ∧ t.cfg = s.cfg ∧ t.keys = s.keys ∧ t.soundGate = s.soundGate ∧ t.loaded = s.loaded ∧
  t.tickLeft = s.tickLeft ∧ t.hostOut = s.hostOut ∧ t.turns = s.turns

/-! ### Drawing -/

/-- A set bit of the n sprite rows at I, drawn at (Vx, Vy), covers the pixel (r, c) of the torus (R100, R101). -/
def SpriteCovers (s : State) (x y : Reg) (n : Fin 16) (r : Fin 32) (c : Fin 64) : Prop :=
  ∃ row < n.val, ∃ col < 8, ((s.getV y).toNat + row) % 32 = r.val ∧ ((s.getV x).toNat + col) % 64 = c.val ∧
    (s.readByte (s.i.toNat + row)).getLsbD (7 - col) = true

/-! ### Registers an instruction reads and writes -/

/-- The registers column "writes" of R24. -/
def Writes : Instr → Reg → Prop
  | .cls, _ => False
  | .ret, _ => False
  | .jp _, _ => False
  | .call _, _ => False
  | .seImm _ _, _ => False
  | .sneImm _ _, _ => False
  | .seReg _ _, _ => False
  | .sneReg _ _, _ => False
  | .ldImm x _, r => r = x
  | .addImm x _, r => r = x
  | .ldReg x _, r => r = x
  | .orReg x _, r => r = x
  | .andReg x _, r => r = x
  | .xorReg x _, r => r = x
  | .addReg x _, r => r = x ∨ r = vF
  | .sub x _, r => r = x ∨ r = vF
  | .shr x _, r => r = x ∨ r = vF
  | .subn x _, r => r = x ∨ r = vF
  | .shl x _, r => r = x ∨ r = vF
  | .ldI _, _ => False
  | .jpV0 _, _ => False
  | .rnd x _, r => r = x
  | .drw _ _ _, r => r = vF
  | .skp _, _ => False
  | .sknp _, _ => False
  | .ldVxDT x, r => r = x
  | .ldVxK x, r => r = x
  | .ldDTVx _, _ => False
  | .ldSTVx _, _ => False
  | .addIVx _, _ => False
  | .ldFVx _, _ => False
  | .ldBVx _, _ => False
  | .ldMemIVx _, _ => False
  | .ldVxMemI x, r => r ≤ x

/-- The registers column "reads" of R24. -/
def Reads (shiftQuirk : Bool) : Instr → Reg → Prop
  | .cls, _ => False
  | .ret, _ => False
  | .jp _, _ => False
  | .call _, _ => False
  | .seImm x _, r => r = x
  | .sneImm x _, r => r = x
  | .seReg x y, r => r = x ∨ r = y
  | .sneReg x y, r => r = x ∨ r = y
  | .ldImm _ _, _ => False
  | .addImm x _, r => r = x
  | .ldReg _ y, r => r = y
  | .orReg x y, r => r = x ∨ r = y
  | .andReg x y, r => r = x ∨ r = y
  | .xorReg x y, r => r = x ∨ r = y
  | .addReg x y, r => r = x ∨ r = y
  | .sub x y, r => r = x ∨ r = y
  | .shr x y, r => if shiftQuirk then r = y else r = x
  | .subn x y, r => r = x ∨ r = y
  | .shl x y, r => if shiftQuirk then r = y else r = x
  | .ldI _, _ => False
  | .jpV0 _, r => r = 0
  | .rnd _ _, _ => False
  | .drw x y _, r => r = x ∨ r = y
  | .skp x, r => r = x
  | .sknp x, r => r = x
  | .ldVxDT _, _ => False
  | .ldVxK _, _ => False
  | .ldDTVx x, r => r = x
  | .ldSTVx x, r => r = x
  | .addIVx x, r => r = x
  | .ldFVx x, r => r = x
  | .ldBVx x, r => r = x
  | .ldMemIVx x, r => r ≤ x
  | .ldVxMemI _, _ => False

/-- The six instructions that write VF as a flag (R22). -/
def WritesFlag : Instr → Prop
  | .addReg _ _ => True
  | .sub _ _ => True
  | .shr _ _ => True
  | .subn _ _ => True
  | .shl _ _ => True
  | .drw _ _ _ => True
  | .cls => False
  | .ret => False
  | .jp _ => False
  | .call _ => False
  | .seImm _ _ => False
  | .sneImm _ _ => False
  | .seReg _ _ => False
  | .sneReg _ _ => False
  | .ldImm _ _ => False
  | .addImm _ _ => False
  | .ldReg _ _ => False
  | .orReg _ _ => False
  | .andReg _ _ => False
  | .xorReg _ _ => False
  | .ldI _ => False
  | .jpV0 _ => False
  | .rnd _ _ => False
  | .skp _ => False
  | .sknp _ => False
  | .ldVxDT _ => False
  | .ldVxK _ => False
  | .ldDTVx _ => False
  | .ldSTVx _ => False
  | .addIVx _ => False
  | .ldFVx _ => False
  | .ldBVx _ => False
  | .ldMemIVx _ => False
  | .ldVxMemI _ => False

end Sys2Proof.Machine
end

