-- ==== Sys2Proof/Certificates/Slice0/Obligations.lean ====
section
/-! DEFINITION. The statements about the model, each from a numbered rule of spec/ or derived from several. -/

open Sys2Proof Sys2Proof.Machine

/-! ### Encoding (30_encoding.md) -/

/-- Every instruction, with every operand, is what the decoder reads from its own word and from its two bytes, under both
readings of DECODE_5_9; exactly two bytes are consumed (R70, R72, R74, R75, R77). -/
def Obligations.DecodeOfEncodeIsTheInstruction : Prop :=
  ∀ (d : Decode59) (i : Instr) (rest : List Byte),
    decode d (encode i) = .instr i ∧
    decodeBytes d ((wordBytes (encode i)).1 :: (wordBytes (encode i)).2 :: rest) = .ok (i, rest)

/-- Under strict each word that decodes is the word of its instruction, so no bit is dropped; under lax the same holds up
to the low nibble of families 5 and 9 (R74, R77). -/
def Obligations.EncodeOfDecodeIsTheWord : Prop :=
  ∀ (w : Word) (i : Instr),
    (decode .strict w = .instr i → encode i = w) ∧
    (decode .lax w = .instr i → encode i = w ∨ ((opField w = 5 ∨ opField w = 9) ∧ encode i = w &&& 0xFFF0))

/-- The words that are no instruction under strict are the classes (a) to (e) of R76, and no others. -/
def Obligations.UnknownWordsAreTheFiveClasses : Prop :=
  ∀ w : Word,
    let op := w.toNat / 4096
    let n := w.toNat % 16
    let nn := w.toNat % 256
    (decode .strict w = .unknown .familyZero ↔ w.toNat ≤ 0x0FFF ∧ w.toNat ≠ 0x00E0 ∧ w.toNat ≠ 0x00EE) ∧
    (decode .strict w = .unknown .lowNibble ↔ (op = 5 ∨ op = 9) ∧ n ≠ 0) ∧
    (decode .strict w = .unknown .familyEight ↔ op = 8 ∧ n ∈ [0x8, 0x9, 0xA, 0xB, 0xC, 0xD, 0xF]) ∧
    (decode .strict w = .unknown .familyE ↔ op = 0xE ∧ nn ∉ [0x9E, 0xA1]) ∧
    (decode .strict w = .unknown .familyF ↔
      op = 0xF ∧ nn ∉ [0x07, 0x0A, 0x15, 0x18, 0x1E, 0x29, 0x33, 0x55, 0x65])

/-- Under lax the low nibble of families 5 and 9 is ignored, and every other word decodes as under strict (R77). -/
def Obligations.LaxIgnoresTheLowNibble : Prop :=
  ∀ w : Word,
    (opField w = 5 → decode .lax w = .instr (.seReg (xField w) (yField w))) ∧
    (opField w = 9 → decode .lax w = .instr (.sneReg (xField w) (yField w))) ∧
    (opField w ≠ 5 → opField w ≠ 9 → decode .lax w = decode .strict w)

/-- The decoder and the opcode table's masks agree: exactly one row admits a word that decodes, and it is the row of the
decoded instruction; no row admits an unknown word (R74, R75, R76). -/
def Obligations.DecoderAgreesWithTheTable : Prop :=
  ∀ (d : Decode59) (w : Word),
    (opcodeTable d).filter (·.admits w) =
      match decode d w with
      | .instr i => [i.row d]
      | .unknown _ => []

/-- Words written out from the patterns of R75 decode to the instructions they stand for. -/
def Obligations.SampleWordsDecode : Prop :=
  decode .strict 0x00EE = .instr .ret ∧ decode .strict 0x1208 = .instr (.jp 0x208) ∧
  decode .strict 0x3342 = .instr (.seImm 3 0x42) ∧ decode .strict 0x8127 = .instr (.subn 1 2) ∧
  decode .strict 0xD125 = .instr (.drw 1 2 5) ∧ decode .strict 0xE5A1 = .instr (.sknp 5) ∧
  decode .strict 0xF355 = .instr (.ldMemIVx 3) ∧ decode .strict 0x5121 = .unknown .lowNibble ∧
  decode .lax 0x5121 = .instr (.seReg 1 2)

/-! ### The cycle (30_encoding.md, 60_exceptions.md) -/

/-- A core's turn of a Running block executes the instruction that the word at PC decodes to, PC already advanced by 2;
around it a tick boundary still due comes first, one instruction is taken from the quota, and the tick may close after it
(R80, R81, R82, R232). -/
def Obligations.StepRunsTheDecodedInstruction : Prop :=
  ∀ (s : State) (i : Instr),
    s.runState = .running → (s.turns = [] ∨ ∃ rest, s.turns = .instr :: rest) → s.pc.toNat ≤ 4094 →
    decode s.cfg.decode59 s.fetchWord = .instr i →
    step s = andThen (exec i ((takeFromQuota (closeTick { s with turns := s.turns.tail })).setPc (s.pc + 2)))
      (fun t => .next (settle t))

/-- Fetch (R80): big-endian at any PC, PC advances by 2; beyond memory it raises OutOfBounds of the first failing address. -/
def Obligations.FetchReadsTwoBytesBigEndian : Prop :=
  ∀ s : State,
    (s.pc.toNat ≤ 4094 → ∃ w t, fetch s = .ok (w, t) ∧
      w.toNat = 256 * (s.readByte s.pc.toNat).toNat + (s.readByte (s.pc.toNat + 1)).toNat ∧
      t.pc.toNat = s.pc.toNat + 2 ∧ OnlyPc s t) ∧
    (s.pc.toNat = 4095 → fetch s = .error (.outOfBounds 4096)) ∧
    (4095 < s.pc.toNat → fetch s = .error (.outOfBounds s.pc.toNat))

/-- A step whose fetch leaves memory always halts: the report has no word, PC is unchanged, and every other piece of
architectural state is too (R80, R223, D9; the address is D12). The halting step does no countdown and no emission, and no
tick is in progress after it (R232, D33; the quota counter is the model's own, log 9). Stated of a block with no boundary
due and no turn planned. -/
def Obligations.FetchErrorHaltsTheBlock : Prop :=
  ∀ s : State, s.runState = .running → s.turns = [] → s.tickLeft ≠ some 0 → 4095 ≤ s.pc.toNat →
    ∃ t, step s = .next t ∧ t.tickLeft = none ∧
      ErrorTaken .halt { cause := .outOfBounds, ia := s.pc, word := none, addr := some (max s.pc.toNat 4096) }
        { s with tickLeft := none } t

/-- Executing an unknown word reports UnknownOpcode with its address and word; under skip it is a no-op, under halt the
block is Faulted (R76, R81, R223). Here and in every statement below that gives a report's ia as pc - 2: with pc below 2,
which only ExecuteWord can meet, the 16-bit result is the model's choice (log 21). -/
def Obligations.UnknownWordIsReported : Prop :=
  ∀ (s : State) (w : Word) (c : UnknownClass), decode s.cfg.decode59 w = .unknown c →
    ∃ t, execute w s = .next t ∧
      ErrorTaken s.cfg.unknownOpcodePolicy
        { cause := .unknownOpcode, ia := s.pc - 2, word := some w, addr := none } s t

/-- Outside Running no step is taken and no boundary passes: a turn of the core or of the frame driver ends a tick that may
be in progress, with no countdown and no emission, and changes nothing else but the plan; and Tick() does nothing (R82,
R224, R232, R233; D28, D33; the tick counter and the plan are the model's own, logs 8, 9). -/
def Obligations.NoStepOutsideRunning : Prop :=
  ∀ s : State, s.runState ≠ .running →
    (s.turns = [] → step s = .next { s with tickLeft := none }) ∧
    (∀ rest, s.turns = .instr :: rest ∨ s.turns = .frame :: rest →
      step s = .next { s with turns := rest, tickLeft := none }) ∧
    tick s = .next s

/-- No step of the core or the frame driver faults, waits or is refused (R82); only an interaction of the host can have no move (R234). -/
def Obligations.OnlyTheHostCanHaveNoMove : Prop :=
  ∀ s : State, (∃ t, step s = .next t) ∨
    ∃ e rest, s.turns = .host e :: rest ∧ step s = .refused (.noMove e s.runState)

/-- Every instruction takes a next state, with no report or with exactly one error of its own taken, all or nothing
(R10, R221, R223, R225). -/
def Obligations.InstructionsRaiseAllOrNothing : Prop :=
  ∀ (i : Instr) (s : State), ∃ t, exec i s = .next t ∧
    ((t.errorLog = s.errorLog ∧ t.fault = s.fault ∧ t.runState = s.runState) ∨
      ∃ c a, c ∈ [Cause.outOfBounds, Cause.stackUnderflow, Cause.stackOverflow] ∧
        ErrorTaken s.cfg.errorPolicy { cause := c, ia := s.pc - 2, word := some (encode i), addr := a } s t)

/-! ### Memory (20_memory.md) -/

/-- W1: what Fx55 stores at I, Fx65 loads back from there, into whatever registers; every other register keeps what it held. -/
def Obligations.StoredRegistersLoadBack : Prop :=
  ∀ (s : State) (x : Reg) (v : Vector Byte 16), s.i.toNat + x.val ≤ 4095 → s.cfg.loadStoreQuirk = false →
    ∃ t u, exec (.ldMemIVx x) s = .next t ∧ exec (.ldVxMemI x) { t with v := v } = .next u ∧
      (∀ r, r ≤ x → u.getV r = s.getV r) ∧ (∀ r, x < r → u.getV r = v[r.val])

/-- Bytes stored by Fx55 are seen by the very next fetch from there (R66). -/
def Obligations.StoredCodeIsFetched : Prop :=
  ∀ (s : State) (x k : Reg) (a : Word), s.i.toNat + x.val ≤ 4095 → k < x → a.toNat = s.i.toNat + k.val →
    ∃ t u, exec (.ldMemIVx x) s = .next t ∧ fetch (t.setPc a) = .ok (joinBytes (s.getV k) (s.getV (k + 1)), u)

/-! ### Loads, arithmetic, logic, shifts, random (42_alu.md) -/

/-- 6xnn and 8xy0 (R140, R142). -/
def Obligations.LoadsSetTheDestination : Prop :=
  ∀ (s : State) (x y : Reg) (nn : Byte),
    ((encode (.ldImm x nn)).toNat = 0x6000 + 256 * x.val + nn.toNat ∧
      ∃ t, exec (.ldImm x nn) s = .next t ∧ t.getV x = nn ∧ OnlyRegs (· = x) s t ∧ t.draws = s.draws) ∧
    ((encode (.ldReg x y)).toNat = 0x8000 + 256 * x.val + 16 * y.val ∧
      ∃ t, exec (.ldReg x y) s = .next t ∧ t.getV x = s.getV y ∧ OnlyRegs (· = x) s t ∧ t.draws = s.draws)

/-- 7xnn: the sum mod 256; VF is unchanged unless it is the destination (R141, R153, D23). -/
def Obligations.AddImmediateWrapsWithoutFlag : Prop :=
  ∀ (s : State) (x : Reg) (nn : Byte),
    (encode (.addImm x nn)).toNat = 0x7000 + 256 * x.val + nn.toNat ∧
    ∃ t, exec (.addImm x nn) s = .next t ∧ (t.getV x).toNat = ((s.getV x).toNat + nn.toNat) % 256 ∧
      OnlyRegs (· = x) s t ∧ t.draws = s.draws

/-- 8xy1, 8xy2, 8xy3, bit by bit; VF is not reset (R143, R144, R145, R153, D23). -/
def Obligations.LogicIsBitwise : Prop :=
  ∀ (s : State) (x y : Reg),
    ((encode (.orReg x y)).toNat = 0x8001 + 256 * x.val + 16 * y.val ∧
      ∃ t, exec (.orReg x y) s = .next t ∧
        (∀ k, (t.getV x).getLsbD k = ((s.getV x).getLsbD k || (s.getV y).getLsbD k)) ∧
        OnlyRegs (· = x) s t ∧ t.draws = s.draws) ∧
    ((encode (.andReg x y)).toNat = 0x8002 + 256 * x.val + 16 * y.val ∧
      ∃ t, exec (.andReg x y) s = .next t ∧
        (∀ k, (t.getV x).getLsbD k = ((s.getV x).getLsbD k && (s.getV y).getLsbD k)) ∧
        OnlyRegs (· = x) s t ∧ t.draws = s.draws) ∧
    ((encode (.xorReg x y)).toNat = 0x8003 + 256 * x.val + 16 * y.val ∧
      ∃ t, exec (.xorReg x y) s = .next t ∧
        (∀ k, (t.getV x).getLsbD k = ((s.getV x).getLsbD k ^^ (s.getV y).getLsbD k)) ∧
        OnlyRegs (· = x) s t ∧ t.draws = s.draws)

/-- 8xy4: the sum mod 256 and, after it, the carry in VF (R146; the order of the two writes is D2). -/
def Obligations.AddReportsCarry : Prop :=
  ∀ (s : State) (x y : Reg), ∃ t, exec (.addReg x y) s = .next t ∧
    (x ≠ vF → (t.getV x).toNat = ((s.getV x).toNat + (s.getV y).toNat) % 256) ∧
    t.getV vF = (if (s.getV x).toNat + (s.getV y).toNat > 255 then 1 else 0) ∧
    OnlyRegs (fun r => r = x ∨ r = vF) s t ∧ t.draws = s.draws

/-- 8xy5 and 8xy7: the difference mod 256 and, after it, not-borrow in VF (R147, R148; the order of the two writes is D2). -/
def Obligations.SubtractionsReportNotBorrow : Prop :=
  ∀ (s : State) (x y : Reg),
    (∃ t, exec (.sub x y) s = .next t ∧
      (x ≠ vF → (t.getV x).toNat = ((s.getV x).toNat + 256 - (s.getV y).toNat) % 256) ∧
      t.getV vF = (if (s.getV x).toNat ≥ (s.getV y).toNat then 1 else 0) ∧
      OnlyRegs (fun r => r = x ∨ r = vF) s t ∧ t.draws = s.draws) ∧
    (∃ t, exec (.subn x y) s = .next t ∧
      (x ≠ vF → (t.getV x).toNat = ((s.getV y).toNat + 256 - (s.getV x).toNat) % 256) ∧
      t.getV vF = (if (s.getV y).toNat ≥ (s.getV x).toNat then 1 else 0) ∧
      OnlyRegs (fun r => r = x ∨ r = vF) s t ∧ t.draws = s.draws)

/-- 8xy6 and 8xyE: one bit, logical, of Vx or under SHIFT_QUIRK of Vy; the bit shifted out ends in VF (R149, R150, D39, D2). -/
def Obligations.ShiftsReportTheBitShiftedOut : Prop :=
  ∀ (s : State) (x y : Reg) (src : Byte), src = (if s.cfg.shiftQuirk then s.getV y else s.getV x) →
    (∃ t, exec (.shr x y) s = .next t ∧ (x ≠ vF → (t.getV x).toNat = src.toNat / 2) ∧
      (t.getV vF).toNat = src.toNat % 2 ∧ OnlyRegs (fun r => r = x ∨ r = vF) s t ∧ t.draws = s.draws) ∧
    (∃ t, exec (.shl x y) s = .next t ∧ (x ≠ vF → (t.getV x).toNat = src.toNat * 2 % 256) ∧
      (t.getV vF).toNat = src.toNat / 128 ∧ OnlyRegs (fun r => r = x ∨ r = vF) s t ∧ t.draws = s.draws)

/-- Cxnn: the free byte of this draw AND nn, whatever the byte; the draw is spent, so that the next execution draws
another (R151, D22; the count of draws is the model's own, log 6). -/
def Obligations.RandomIsTheDrawUnderTheMask : Prop :=
  ∀ (s : State) (x : Reg) (nn : Byte), ∃ t, exec (.rnd x nn) s = .next t ∧
    t.getV x = Config.rand8 s.draws &&& nn ∧ t.draws = s.draws + 1 ∧ OnlyRegs (· = x) s t

/-! ### Control transfer and skips (41_control_flow.md) -/

/-- 1nnn: PC is the target (R121); a target of 4095 fails at the next fetch only, with OutOfBounds(4096) (R80, R129, R226;
D3, D12). -/
def Obligations.JumpSetsPc : Prop :=
  ∀ (s : State) (nnn : Addr), (encode (.jp nnn)).toNat = 0x1000 + nnn.toNat ∧
    ∃ t, exec (.jp nnn) s = .next t ∧ t.pc.toNat = nnn.toNat ∧ OnlyPc s t ∧
      (4095 ≤ nnn.toNat → fetch t = .error (.outOfBounds 4096))

/-- Bnnn: the sum with V0 is not reduced mod 4096 (R127, D3). -/
def Obligations.JumpWithOffsetIsNotWrapped : Prop :=
  ∀ (s : State) (nnn : Addr), ∃ t, exec (.jpV0 nnn) s = .next t ∧
    t.pc.toNat = nnn.toNat + (s.getV 0).toNat ∧ OnlyPc s t

/-- 2nnn: the return address pc goes on top of the stack, unless the stack holds STACK_DEPTH entries: then
StackOverflow(pc) is raised (R122, R27, D7). -/
def Obligations.CallPushesOrOverflows : Prop :=
  ∀ (s : State) (nnn : Addr),
    (s.cfg.stackDepth ≠ some s.stack.length → ∃ t, exec (.call nnn) s = .next t ∧
      t.pc.toNat = nnn.toNat ∧ t.stack = s.stack ++ [s.pc] ∧ OnlyPcAndStack s t) ∧
    (s.cfg.stackDepth = some s.stack.length → ∃ t, exec (.call nnn) s = .next t ∧
      ErrorTaken s.cfg.errorPolicy
        { cause := .stackOverflow, ia := s.pc - 2, word := some (encode (.call nnn)), addr := some s.pc.toNat } s t)

/-- 00EE: PC is the last entry of the stack, which is removed (R120). -/
def Obligations.ReturnPopsTheLastEntry : Prop :=
  ∀ (s : State) (l : List Word) (a : Word), s.stack = l ++ [a] → ∃ t, exec .ret s = .next t ∧
    t.pc = a ∧ t.stack = l ∧ OnlyPcAndStack s t

/-- 00EE on an empty stack: StackUnderflow, or under RET_EMPTY_POLICY = noop nothing at all (R120, D8). -/
def Obligations.ReturnOnAnEmptyStack : Prop :=
  ∀ s : State, s.stack = [] →
    (s.cfg.retEmptyPolicy = .noop → exec .ret s = .next s) ∧
    (s.cfg.retEmptyPolicy = .fault → ∃ t, exec .ret s = .next t ∧
      ErrorTaken s.cfg.errorPolicy
        { cause := .stackUnderflow, ia := s.pc - 2, word := some 0x00EE, addr := none } s t)

/-- 3xnn and 4xnn: a taken skip adds 2 to pc (R123, R124, R128). Here and in the other skips: with pc above 0xFFFD,
which only ExecuteWord can meet, the 16-bit pc + 2 is the model's choice (log 21). -/
def Obligations.ImmediateSkips : Prop :=
  ∀ (s : State) (x : Reg) (nn : Byte),
    ((encode (.seImm x nn)).toNat = 0x3000 + 256 * x.val + nn.toNat ∧
      ∃ t, exec (.seImm x nn) s = .next t ∧ t.pc = (if s.getV x = nn then s.pc + 2 else s.pc) ∧ OnlyPc s t) ∧
    ((encode (.sneImm x nn)).toNat = 0x4000 + 256 * x.val + nn.toNat ∧
      ∃ t, exec (.sneImm x nn) s = .next t ∧ t.pc = (if s.getV x ≠ nn then s.pc + 2 else s.pc) ∧ OnlyPc s t)

/-- 5xy0 and 9xy0: a taken skip adds 2 to pc (R125, R126, R128). -/
def Obligations.RegisterSkips : Prop :=
  ∀ (s : State) (x y : Reg),
    (∃ t, exec (.seReg x y) s = .next t ∧ t.pc = (if s.getV x = s.getV y then s.pc + 2 else s.pc) ∧ OnlyPc s t) ∧
    (∃ t, exec (.sneReg x y) s = .next t ∧ t.pc = (if s.getV x ≠ s.getV y then s.pc + 2 else s.pc) ∧ OnlyPc s t)

/-- Balanced calls and returns: after N nested calls within the stack's capacity and N returns, PC and the stack are as if
no call had occurred, and so is everything else (R130). -/
def Obligations.BalancedCallsReturn : Prop :=
  ∀ (as : List Addr) (s : State), (∀ d, s.cfg.stackDepth = some d → s.stack.length + as.length ≤ d) →
    ∃ t u, callAll as s = .next t ∧ t.stack.length = s.stack.length + as.length ∧
      returnAll as.length t = .next u ∧ u.pc = s.pc ∧ u.stack = s.stack ∧ OnlyPcAndStack s u

/-! ### Display (40_display.md) -/

/-- 00E0: every bit is 0 and draw_flag is true; nothing else changes (R102). -/
def Obligations.ClearBlanksTheDisplay : Prop :=
  ∀ s : State, (encode .cls).toNat = 0x00E0 ∧ ∃ t, exec .cls s = .next t ∧
    (∀ r c, t.disp.pixel r c = false) ∧ t.drawFlag = true ∧
    SameRegs s t ∧ SameMem s t ∧ t.i = s.i ∧ t.pc = s.pc ∧ t.stack = s.stack ∧ SameTimers s t ∧
    t.draws = s.draws ∧ SameBlock s t

/-- Dxyn within memory: exactly the covered pixels of the torus are flipped; VF is 1 exactly when a covered pixel was 1;
draw_flag is true, for n = 0 too (R100, R101, R103, R104, R105, D13, D15, D16). -/
def Obligations.DrawFlipsCoveredPixels : Prop :=
  ∀ (s : State) (x y : Reg) (n : Fin 16), (n.val = 0 ∨ s.i.toNat + n.val ≤ 4096) →
    ∃ t, exec (.drw x y n) s = .next t ∧
      (∀ r c, SpriteCovers s x y n r c → t.disp.pixel r c = !s.disp.pixel r c) ∧
      (∀ r c, ¬ SpriteCovers s x y n r c → t.disp.pixel r c = s.disp.pixel r c) ∧
      ((∃ r c, SpriteCovers s x y n r c ∧ s.disp.pixel r c = true) → t.getV vF = 1) ∧
      ((¬ ∃ r c, SpriteCovers s x y n r c ∧ s.disp.pixel r c = true) → t.getV vF = 0) ∧
      t.drawFlag = true ∧ SameRegsExcept (· = vF) s t ∧ SameMem s t ∧ t.i = s.i ∧ t.pc = s.pc ∧ t.stack = s.stack ∧
      SameTimers s t ∧ t.draws = s.draws ∧ SameBlock s t

/-- Dxyn whose rows leave memory raises OutOfBounds of the lowest failing address and changes no pixel, VF or draw_flag (R103, D14, D11). -/
def Obligations.DrawBeyondMemoryRaises : Prop :=
  ∀ (s : State) (x y : Reg) (n : Fin 16), n.val ≠ 0 → 4096 < s.i.toNat + n.val →
    ∃ t, exec (.drw x y n) s = .next t ∧
      ErrorTaken s.cfg.errorPolicy
        { cause := .outOfBounds, ia := s.pc - 2, word := some (encode (.drw x y n)), addr := some (max s.i.toNat 4096) } s t

/-- The same sprite drawn twice at the same origin restores the display; the second VF is 1 exactly when some covered pixel
was 0 before the first draw (R106). The origin registers are read again by the second draw, so they are not VF. -/
def Obligations.DrawingTwiceRestores : Prop :=
  ∀ (s : State) (x y : Reg) (n : Fin 16), (n.val = 0 ∨ s.i.toNat + n.val ≤ 4096) → x ≠ vF → y ≠ vF →
    ∃ t u, exec (.drw x y n) s = .next t ∧ exec (.drw x y n) t = .next u ∧
      (∀ r c, u.disp.pixel r c = s.disp.pixel r c) ∧
      (u.getV vF = 1 ↔ ∃ r c, SpriteCovers s x y n r c ∧ s.disp.pixel r c = false)

/-! ### Index register and memory transfers (43_index_memory.md) -/

/-- Annn (R170). -/
def Obligations.LoadIndex : Prop :=
  ∀ (s : State) (nnn : Addr), (encode (.ldI nnn)).toNat = 0xA000 + nnn.toNat ∧
    ∃ t, exec (.ldI nnn) s = .next t ∧ t.i.toNat = nnn.toNat ∧ OnlyI s t

/-- Fx1E: mod 4096, VF unchanged (R171, R153, D23). -/
def Obligations.AddToIndexWraps : Prop :=
  ∀ (s : State) (x : Reg), (encode (.addIVx x)).toNat = 0xF01E + 256 * x.val ∧
    ∃ t, exec (.addIVx x) s = .next t ∧ t.i.toNat = (s.i.toNat + (s.getV x).toNat) % 4096 ∧ OnlyI s t

/-- Fx29: I is FONT_BASE + 5·Vx, the digit not masked; in a well-formed configuration the reduction mod 4096 changes
nothing (R172, D20). -/
def Obligations.FontAddressIsNotMasked : Prop :=
  ∀ (s : State) (x : Reg), ∃ t, exec (.ldFVx x) s = .next t ∧
    t.i.toNat = (s.cfg.fontBase.toNat + 5 * (s.getV x).toNat) % 4096 ∧
    (s.cfg.wellFormed → t.i.toNat = s.cfg.fontBase.toNat + 5 * (s.getV x).toNat) ∧ OnlyI s t

/-- Fx33: hundreds, tens and ones at I, I+1, I+2, I unchanged; when the three bytes leave memory, OutOfBounds(4096) is
raised and no byte is written (R173). -/
def Obligations.BcdStoresThreeDigits : Prop :=
  ∀ (s : State) (x : Reg), (encode (.ldBVx x)).toNat = 0xF033 + 256 * x.val ∧
    (s.i.toNat + 2 ≤ 4095 → ∃ t, exec (.ldBVx x) s = .next t ∧
      (t.readByte s.i.toNat).toNat = (s.getV x).toNat / 100 ∧
      (t.readByte (s.i.toNat + 1)).toNat = (s.getV x).toNat / 10 % 10 ∧
      (t.readByte (s.i.toNat + 2)).toNat = (s.getV x).toNat % 10 ∧
      t.i = s.i ∧ OnlyIAndBytes (s.element 0) 3 s t) ∧
    (4095 < s.i.toNat + 2 → ∃ t, exec (.ldBVx x) s = .next t ∧
      ErrorTaken s.cfg.errorPolicy
        { cause := .outOfBounds, ia := s.pc - 2, word := some (encode (.ldBVx x)), addr := some 4096 } s t)

/-- Fx55: V0..Vx at I.., every other byte unchanged; I is unchanged, or past the range mod 4096 under LOAD_STORE_QUIRK;
when the range leaves memory, OutOfBounds(4096) is raised and nothing is written (R174, D11, D21). -/
def Obligations.StoreRegistersToMemory : Prop :=
  ∀ (s : State) (x : Reg),
    (s.i.toNat + x.val ≤ 4095 → ∃ t, exec (.ldMemIVx x) s = .next t ∧
      (∀ r, r ≤ x → t.readByte (s.i.toNat + r.val) = s.getV r) ∧
      t.i.toNat = (if s.cfg.loadStoreQuirk then (s.i.toNat + x.val + 1) % 4096 else s.i.toNat) ∧
      OnlyIAndBytes (s.element 0) (x.val + 1) s t) ∧
    (4095 < s.i.toNat + x.val → ∃ t, exec (.ldMemIVx x) s = .next t ∧
      ErrorTaken s.cfg.errorPolicy
        { cause := .outOfBounds, ia := s.pc - 2, word := some (encode (.ldMemIVx x)), addr := some 4096 } s t)

/-- Fx65: V0..Vx from I.., registers above x unchanged; I as in Fx55; when the range leaves memory, OutOfBounds(4096) is
raised and no register is written (R175, D11, D21). -/
def Obligations.LoadRegistersFromMemory : Prop :=
  ∀ (s : State) (x : Reg),
    (s.i.toNat + x.val ≤ 4095 → ∃ t, exec (.ldVxMemI x) s = .next t ∧
      (∀ r, r ≤ x → t.getV r = s.readByte (s.i.toNat + r.val)) ∧
      t.i.toNat = (if s.cfg.loadStoreQuirk then (s.i.toNat + x.val + 1) % 4096 else s.i.toNat) ∧
      SameRegsExcept (· ≤ x) s t ∧ SameMem s t ∧ t.pc = s.pc ∧ t.stack = s.stack ∧ SameTimers s t ∧
      SameDisplay s t ∧ t.draws = s.draws ∧ SameBlock s t) ∧
    (4095 < s.i.toNat + x.val → ∃ t, exec (.ldVxMemI x) s = .next t ∧
      ErrorTaken s.cfg.errorPolicy
        { cause := .outOfBounds, ia := s.pc - 2, word := some (encode (.ldVxMemI x)), addr := some 4096 } s t)

/-! ### Keys and timers (44_keys_timers.md) -/

/-- Ex9E and ExA1 with a key index 0..15: the skip follows the key, which is not consumed (R190, R191). -/
def Obligations.KeySkips : Prop :=
  ∀ (s : State) (x : Reg) (k : Key), (s.getV x).toNat = k.val →
    (∃ t, exec (.skp x) s = .next t ∧ t.pc = (if s.keys[k.val] = true then s.pc + 2 else s.pc) ∧ OnlyPc s t) ∧
    (∃ t, exec (.sknp x) s = .next t ∧ t.pc = (if s.keys[k.val] = false then s.pc + 2 else s.pc) ∧ OnlyPc s t)

/-- Ex9E and ExA1 with a value above 15 raise OutOfBounds of that value: no masking (R196, D17). -/
def Obligations.KeyIndexAboveFifteenRaises : Prop :=
  ∀ (s : State) (x : Reg), 15 < (s.getV x).toNat →
    (∃ t, exec (.skp x) s = .next t ∧
      ErrorTaken s.cfg.errorPolicy
        { cause := .outOfBounds, ia := s.pc - 2, word := some (encode (.skp x)), addr := some (s.getV x).toNat } s t) ∧
    (∃ t, exec (.sknp x) s = .next t ∧
      ErrorTaken s.cfg.errorPolicy
        { cause := .outOfBounds, ia := s.pc - 2, word := some (encode (.sknp x)), addr := some (s.getV x).toNat } s t)

/-- Fx07, Fx15, Fx18 (R192, R193, R194); a timer set counts down from the next tick boundary on, with a floor at 0, and the
sound gate waits for it (R231; that gate sentence of R194 is the spec's inference from R231). -/
def Obligations.TimersAreReadAndSet : Prop :=
  ∀ (s : State) (x : Reg),
    ((encode (.ldVxDT x)).toNat = 0xF007 + 256 * x.val ∧
      ∃ t, exec (.ldVxDT x) s = .next t ∧ t.getV x = s.dt ∧ OnlyRegs (· = x) s t ∧ t.draws = s.draws) ∧
    ((encode (.ldDTVx x)).toNat = 0xF015 + 256 * x.val ∧
      ∃ t, exec (.ldDTVx x) s = .next t ∧ t.dt = s.getV x ∧ t.st = s.st ∧ SameRegs s t ∧ SameMem s t ∧ t.i = s.i ∧
        t.pc = s.pc ∧ t.stack = s.stack ∧ SameDisplay s t ∧ t.draws = s.draws ∧ SameBlock s t ∧
        (tickBoundary t).dt.toNat = (s.getV x).toNat - 1) ∧
    ((encode (.ldSTVx x)).toNat = 0xF018 + 256 * x.val ∧
      ∃ t, exec (.ldSTVx x) s = .next t ∧ t.st = s.getV x ∧ t.dt = s.dt ∧ SameRegs s t ∧ SameMem s t ∧ t.i = s.i ∧
        t.pc = s.pc ∧ t.stack = s.stack ∧ SameDisplay s t ∧ t.draws = s.draws ∧ SameBlock s t ∧
        (tickBoundary t).st.toNat = (s.getV x).toNat - 1 ∧
        ((tickBoundary t).soundGate = true ↔ 0 < (s.getV x).toNat - 1))

/-- Fx0A: with a key pressed, Vx receives the index of a pressed key, whichever the draw picks; with none, PC is rewound by 2
and nothing else changes (R195, D18, D19). With pc below 2, under ExecuteWord only, the 16-bit pc - 2 is the model's
choice (log 21). -/
def Obligations.KeyWaitPolls : Prop :=
  ∀ (s : State) (x : Reg),
    ((∃ k : Key, s.keys[k.val] = true) → ∃ t, exec (.ldVxK x) s = .next t ∧
      (∃ k : Key, s.keys[k.val] = true ∧ (t.getV x).toNat = k.val) ∧ t.draws = s.draws + 1 ∧ OnlyRegs (· = x) s t) ∧
    ((∀ k : Key, s.keys[k.val] = false) → ∃ t, exec (.ldVxK x) s = .next t ∧ t.pc = s.pc - 2 ∧ OnlyPc s t)

/-! ### What every instruction leaves alone (10_state.md) -/

/-- A register that R24 does not list as written by an instruction is unchanged by it, error or not. -/
def Obligations.RegistersAreWrittenAsListed : Prop :=
  ∀ (i : Instr) (s t : State) (r : Reg), exec i s = .next t → ¬ Writes i r → t.getV r = s.getV r

/-- A register that R24 does not list as read by an instruction has no influence on it: with another value there, the
instruction ends in the same state but for that register, error or not. -/
def Obligations.RegistersAreReadAsListed : Prop :=
  ∀ (i : Instr) (s t u : State) (r : Reg) (b : Byte), ¬ Reads s.cfg.shiftQuirk i r →
    exec i s = .next t → exec i (s.setV r b) = .next u →
    (∀ q, q ≠ r → u.getV q = t.getV q) ∧ { u with v := t.v } = t

/-- The six flag writers leave 0 or 1 in VF when they complete; every other instruction that does not name VF as its
destination leaves VF as it was (R22, R153, D1, D23). -/
def Obligations.OnlySixInstructionsWriteTheFlag : Prop :=
  ∀ (i : Instr) (s t : State), exec i s = .next t →
    (WritesFlag i → t.errorLog = s.errorLog → t.getV vF = 0 ∨ t.getV vF = 1) ∧
    (¬ WritesFlag i → ¬ Writes i vF → t.getV vF = s.getV vF)

/-- I, the stack, the timers, the display and memory are changed by their listed instructions only; no instruction changes a
key, the sound gate or the configuration (R25, R27, R28, R29, R30, R31, R33, R36, R58). -/
def Obligations.StateIsWrittenAsListed : Prop :=
  ∀ (i : Instr) (s t : State), exec i s = .next t →
    (t.i ≠ s.i → (∃ nnn, i = .ldI nnn) ∨ (∃ x, i = .addIVx x) ∨ (∃ x, i = .ldFVx x) ∨
      (s.cfg.loadStoreQuirk = true ∧ ∃ x, i = .ldMemIVx x ∨ i = .ldVxMemI x)) ∧
    (t.stack ≠ s.stack → i = .ret ∨ ∃ nnn, i = .call nnn) ∧
    (t.dt ≠ s.dt → ∃ x, i = .ldDTVx x) ∧ (t.st ≠ s.st → ∃ x, i = .ldSTVx x) ∧
    ((∃ r c, t.disp.pixel r c ≠ s.disp.pixel r c) → i = .cls ∨ ∃ x y n, i = .drw x y n) ∧
    ((∃ a, t.readByte a ≠ s.readByte a) → ∃ x, i = .ldBVx x ∨ i = .ldMemIVx x) ∧
    t.keys = s.keys ∧ t.soundGate = s.soundGate ∧ t.cfg = s.cfg

/-- No step changes the configuration (R36); only a host's turn changes a key (R31, R236); error_log only grows (R35). -/
def Obligations.StepsKeepConfigurationKeysAndLog : Prop :=
  ∀ s t : State, step s = .next t →
    t.cfg = s.cfg ∧ (∃ l, t.errorLog = s.errorLog ++ l) ∧
    ((∀ e rest, s.turns ≠ .host e :: rest) → t.keys = s.keys)

/-! ### The invariant -/

/-- A block has the invariant when it is constructed, whatever its configuration (R38); so has State.reset. -/
def Obligations.InvariantAtReset : Prop :=
  (∀ c : Config, (State.construct c).Inv) ∧ State.reset.Inv

/-- Every step keeps the invariant: the core's, the frame driver's and the host's (R25, R26, R27, R35, R51, R234). -/
def Obligations.InvariantIsKeptByEveryStep : Prop :=
  ∀ s t : State, s.Inv → step s = .next t → t.Inv

/-! ### Timers and the frame driver (60_exceptions.md) -/

/-- The boundary of a tick: both timers count down to a floor of 0, and the sound gate is the new ST > 0 (R231). -/
def Obligations.TickBoundaryCountsDown : Prop :=
  ∀ s : State,
    (tickBoundary s).dt.toNat = s.dt.toNat - 1 ∧ (tickBoundary s).st.toNat = s.st.toNat - 1 ∧
    ((tickBoundary s).soundGate = true ↔ 0 < s.st.toNat - 1)

/-- The boundary of a tick emits the sound gate and, exactly when draw_flag holds, the whole display; then draw_flag is
false; registers, memory, stack and run state are unchanged (R232, R237, R238). -/
def Obligations.TickBoundaryEmits : Prop :=
  ∀ s : State,
    (s.drawFlag = true → (tickBoundary s).hostOut =
      s.hostOut ++ [.soundGate (tickBoundary s).soundGate, .display s.disp]) ∧
    (s.drawFlag = false → (tickBoundary s).hostOut = s.hostOut ++ [.soundGate (tickBoundary s).soundGate]) ∧
    (tickBoundary s).drawFlag = false ∧ (tickBoundary s).disp = s.disp ∧ SameRegs s (tickBoundary s) ∧
    SameMem s (tickBoundary s) ∧ (tickBoundary s).i = s.i ∧ (tickBoundary s).pc = s.pc ∧
    (tickBoundary s).stack = s.stack ∧ (tickBoundary s).runState = s.runState ∧
    (tickBoundary s).errorLog = s.errorLog

/-- A tick is its quota of steps: from the beginning of a tick of a Running block, IPT steps with no host interaction
between them end in the state that Tick() as R232 writes it ends in, a halt in the quota included (R232, D33). -/
def Obligations.TickIsItsQuotaOfSteps : Prop :=
  ∀ s : State, s.cfg.wellFormed → s.runState = .running → s.tickLeft = none → s.turns = [] →
    Host.Core.run Sys2Proof.core s.cfg.ipt s = tick s

/-! ### Host interface, load and reset (60_exceptions.md, 70_reset_and_hazards.md) -/

/-- The run-state machine of R234, row by row. Load accepted and a turn that is not the host's keep the run state, but that
a run-time error of policy halt moves Running to Faulted with the fault recorded; Run and PauseToggle move as the table
says and change nothing else; Stop ends in Stopped (what else it does is StopIsAFullReset). An event the table has no row
for has no move (D27, D28, D38; the refusal is the model's way to say so, log 11). -/
def Obligations.RunStatesMoveAsTabulated : Prop :=
  ∀ s : State,
    (∀ bytes rest, s.turns = .host (.load bytes) :: rest →
      (s.runState = .stopped → ∃ t, step s = .next t ∧ t.runState = .stopped) ∧
      (s.runState ≠ .stopped → step s = .refused (.noMove (.load bytes) s.runState))) ∧
    (∀ rest, s.turns = .host .run :: rest →
      (s.runState = .stopped ∧ s.loaded = true → step s = .next { s with turns := rest, runState := .running }) ∧
      (¬ (s.runState = .stopped ∧ s.loaded = true) → step s = .refused (.noMove .run s.runState))) ∧
    (∀ rest, s.turns = .host .pauseToggle :: rest →
      (s.runState = .running → step s = .next { s with turns := rest, runState := .paused }) ∧
      (s.runState = .paused → step s = .next { s with turns := rest, runState := .running }) ∧
      (s.runState = .stopped ∨ s.runState = .faulted → step s = .refused (.noMove .pauseToggle s.runState))) ∧
    (∀ rest, s.turns = .host .stop :: rest → ∃ t, step s = .next t ∧ t.runState = .stopped) ∧
    ((∀ e rest, s.turns ≠ .host e :: rest) → ∃ t, step s = .next t ∧
      ((t.runState = s.runState ∧ t.fault = s.fault) ∨
        (s.runState = .running ∧ t.runState = .faulted ∧ ∃ r, t.fault = some r ∧ t.errorLog = s.errorLog ++ [r])))

/-- Load in Stopped: a program that fits is copied to 0x200 on and nothing else of the block changes, but that a Load is now
accepted; one that does not fit is answered ProgramTooLarge with no change of state, and is not logged (R262, D27; the
answers in hostOut are log 12, the bit `loaded` log 17). -/
def Obligations.LoadCopiesTheProgram : Prop :=
  ∀ (s : State) (bytes : List Byte) (rest : List Turn), s.turns = .host (.load bytes) :: rest → s.runState = .stopped →
    (bytes.length ≤ 3584 → ∃ t, step s = .next t ∧
      (∀ k, ∀ h : k < bytes.length, t.readByte (0x200 + k) = bytes[k]) ∧
      SameMemOutside 0x200 bytes.length s t ∧
      t = { s with turns := rest, mem := t.mem, loaded := true, hostOut := s.hostOut ++ [.loadAccepted] }) ∧
    (3584 < bytes.length →
      step s = .next { s with turns := rest, hostOut := s.hostOut ++ [.programTooLarge bytes.length] })

/-- Stop, from every run state, is the full reset of R261: every component takes its reset value; the configuration and
error_log are not touched (R38, R260, R261, D40). -/
def Obligations.StopIsAFullReset : Prop :=
  ∀ (s : State) (rest : List Turn), s.turns = .host .stop :: rest →
    ∃ t, step s = .next t ∧
      (∀ k, ∀ h : k < 80, t.readByte (s.cfg.fontBase.toNat + k) = s.cfg.fontData[k]) ∧
      (∀ a, a < s.cfg.fontBase.toNat ∨ s.cfg.fontBase.toNat + 80 ≤ a → t.readByte a = 0) ∧
      (∀ r, t.getV r = 0) ∧ (∀ k : Key, t.keys[k.val] = false) ∧ t.i = 0 ∧ t.pc = 0x200 ∧ t.stack = [] ∧
      t.dt = 0 ∧ t.st = 0 ∧ (∀ r c, t.disp.pixel r c = false) ∧ t.drawFlag = false ∧ t.soundGate = false ∧
      t.fault = none ∧ t.runState = .stopped ∧ t.loaded = false ∧ t.cfg = s.cfg ∧ t.errorLog = s.errorLog

/-- SetKey sets one slot, in every run state, and every read of it in a later step sees it; nothing else changes (R235, R236). -/
def Obligations.KeyWritesAreSeenByTheNextPoll : Prop :=
  ∀ (s : State) (k : Key) (b : Bool) (rest : List Turn), s.turns = .host (.setKey k b) :: rest →
    ∃ t, step s = .next t ∧ t.keys[k.val] = b ∧ (∀ j : Key, j ≠ k → t.keys[j.val] = s.keys[j.val]) ∧
      t = { s with turns := rest, keys := t.keys } ∧
      (∀ (x : Reg), (s.getV x).toNat = k.val → exec (.skp x) t = .next (if b then t.setPc (t.pc + 2) else t))

/-- A snapshot gives PC, I, DT, ST, the registers and all 4096 bytes, and changes no state (R239, D35). -/
def Obligations.SnapshotReadsAndChangesNothing : Prop :=
  ∀ (s : State) (rest : List Turn), s.turns = .host .snapshot :: rest →
    ∃ q : Snapshot, step s = .next { s with turns := rest, hostOut := s.hostOut ++ [.snapshot q] } ∧
      q.pc = s.pc ∧ q.i = s.i ∧ q.dt = s.dt ∧ q.st = s.st ∧ q.v = s.v ∧ q.memory.length = 4096 ∧
      ∀ a, ∀ h : a < q.memory.length, q.memory[a] = s.readByte a

/-- The ends of a run that are no failure last: at the self-jump (a), and at a key wait with no key pressed (c), a step of the
core comes back to the same end, with registers, memory, I, stack, display and error_log as they were (R121, R195, R270). -/
def Obligations.EndsOfARunLast : Prop :=
  ∀ s : State, s.turns = [] →
    (∀ a, s.AtEnd a → ∃ t, step s = .next t ∧ t.AtEnd a ∧ SameRegs s t ∧ SameMem s t ∧ t.i = s.i ∧
      t.stack = s.stack ∧ t.disp = s.disp ∧ t.errorLog = s.errorLog ∧ t.turns = []) ∧
    (∀ x, s.WaitsForKey x → ∃ t, step s = .next t ∧ t.WaitsForKey x ∧ t.pc = s.pc ∧ SameRegs s t ∧ SameMem s t ∧
      t.i = s.i ∧ t.stack = s.stack ∧ t.disp = s.disp ∧ t.errorLog = s.errorLog ∧ t.turns = [])
end

