-- ==== Sys2Proof/Laws/Decode.lean ====
section
/-! SUPPORT. Words and their fields as numbers, and the fields of each format (R71, R72). -/

namespace Sys2Proof

theorem append_toNat {m n : Nat} (a : BitVec m) (b : BitVec n) : (a ++ b).toNat = 2 ^ n * a.toNat + b.toNat := by
  rw [BitVec.toNat_append, ← Nat.shiftLeft_add_eq_or_of_lt b.isLt, Nat.shiftLeft_eq, Nat.mul_comm]

/-! ### Words of each format as numbers -/

theorem formNNN_toNat (op : BitVec 4) (nnn : Addr) : (formNNN op nnn).toNat = 4096 * op.toNat + nnn.toNat :=
  append_toNat op nnn

theorem formXNN_toNat (op : BitVec 4) (x : Reg) (nn : Byte) :
    (formXNN op x nn).toNat = 4096 * op.toNat + 256 * x.val + nn.toNat := by
  have h : (formXNN op x nn).toNat = 2 ^ 8 * (op ++ BitVec.ofFin (w := 4) x).toNat + nn.toNat := append_toNat _ nn
  rw [h, append_toNat, show (BitVec.ofFin (w := 4) x).toNat = x.val from rfl]
  omega

theorem formXYN_toNat (op : BitVec 4) (x y : Reg) (n : Fin 16) :
    (formXYN op x y n).toNat = 4096 * op.toNat + 256 * x.val + 16 * y.val + n.val := by
  have h : (formXYN op x y n).toNat =
      2 ^ 4 * (op ++ BitVec.ofFin (w := 4) x ++ BitVec.ofFin (w := 4) y).toNat + n.val := append_toNat _ _
  rw [h, append_toNat, append_toNat, show (BitVec.ofFin (w := 4) x).toNat = x.val from rfl,
    show (BitVec.ofFin (w := 4) y).toNat = y.val from rfl]
  omega

theorem joinBytes_toNat (hi lo : Byte) : (joinBytes hi lo).toNat = 256 * hi.toNat + lo.toNat := append_toNat hi lo

/-! ### Fields as numbers -/

theorem opField_eq (w : Word) : opField w = w.toNat / 4096 := by
  simp only [opField, BitVec.extractLsb'_toNat, Nat.shiftRight_eq_div_pow]
  omega

theorem xField_val (w : Word) : (xField w).val = w.toNat / 256 % 16 := by
  show (w.extractLsb' 8 4).toNat = _
  simp [BitVec.extractLsb'_toNat, Nat.shiftRight_eq_div_pow]

theorem yField_val (w : Word) : (yField w).val = w.toNat / 16 % 16 := by
  show (w.extractLsb' 4 4).toNat = _
  simp [BitVec.extractLsb'_toNat, Nat.shiftRight_eq_div_pow]

theorem nField_val (w : Word) : (nField w).val = w.toNat % 16 := by
  show (w.extractLsb' 0 4).toNat = _
  simp [BitVec.extractLsb'_toNat]

theorem nnField_toNat (w : Word) : (nnField w).toNat = w.toNat % 256 := by
  simp [nnField, BitVec.extractLsb'_toNat]

theorem nnnField_toNat (w : Word) : (nnnField w).toNat = w.toNat % 4096 := by
  simp [nnnField, BitVec.extractLsb'_toNat]

/-! ### The fields of each format -/

@[simp] theorem opField_formNNN (op : BitVec 4) (nnn : Addr) : opField (formNNN op nnn) = op.toNat := by
  have := nnn.isLt
  rw [opField_eq, formNNN_toNat]; omega

@[simp] theorem nnnField_formNNN (op : BitVec 4) (nnn : Addr) : nnnField (formNNN op nnn) = nnn := by
  have := nnn.isLt
  apply BitVec.eq_of_toNat_eq
  rw [nnnField_toNat, formNNN_toNat]; omega

@[simp] theorem opField_formXNN (op : BitVec 4) (x : Reg) (nn : Byte) : opField (formXNN op x nn) = op.toNat := by
  have := nn.isLt
  have hx : x.val < 16 := x.isLt
  rw [opField_eq, formXNN_toNat]; omega

@[simp] theorem xField_formXNN (op : BitVec 4) (x : Reg) (nn : Byte) : xField (formXNN op x nn) = x := by
  have := nn.isLt
  have hx : x.val < 16 := x.isLt
  apply Fin.ext
  rw [xField_val, formXNN_toNat]; omega

@[simp] theorem nnField_formXNN (op : BitVec 4) (x : Reg) (nn : Byte) : nnField (formXNN op x nn) = nn := by
  have := nn.isLt
  apply BitVec.eq_of_toNat_eq
  rw [nnField_toNat, formXNN_toNat]; omega

@[simp] theorem opField_formXYN (op : BitVec 4) (x y : Reg) (n : Fin 16) : opField (formXYN op x y n) = op.toNat := by
  have hx : x.val < 16 := x.isLt
  have hy : y.val < 16 := y.isLt
  have hn : n.val < 16 := n.isLt
  rw [opField_eq, formXYN_toNat]; omega

@[simp] theorem xField_formXYN (op : BitVec 4) (x y : Reg) (n : Fin 16) : xField (formXYN op x y n) = x := by
  have hx : x.val < 16 := x.isLt
  have hy : y.val < 16 := y.isLt
  have hn : n.val < 16 := n.isLt
  apply Fin.ext
  rw [xField_val, formXYN_toNat]; omega

@[simp] theorem yField_formXYN (op : BitVec 4) (x y : Reg) (n : Fin 16) : yField (formXYN op x y n) = y := by
  have hy : y.val < 16 := y.isLt
  have hn : n.val < 16 := n.isLt
  apply Fin.ext
  rw [yField_val, formXYN_toNat]; omega

@[simp] theorem nField_formXYN (op : BitVec 4) (x y : Reg) (n : Fin 16) : nField (formXYN op x y n) = n := by
  have hn : n.val < 16 := n.isLt
  apply Fin.ext
  rw [nField_val, formXYN_toNat]; omega

/-! ### Bytes -/

@[simp] theorem joinBytes_wordBytes (w : Word) : joinBytes (wordBytes w).1 (wordBytes w).2 = w := by
  apply BitVec.eq_of_toNat_eq
  rw [joinBytes_toNat]
  simp only [wordBytes, BitVec.extractLsb'_toNat, Nat.shiftRight_eq_div_pow]
  omega

end Sys2Proof
end

