-- ==== Sys2Proof/Laws/Display.lean ====
section
/-! SUPPORT. What a draw does to each pixel and when it collides (R100, R103, R104). -/

namespace Sys2Proof.Machine

/-- The sprite byte b, drawn from column cx on, covers column c with a set bit. -/
def rowCovers (cx : Nat) (b : Byte) (c : Fin 64) (k : Nat) : Bool :=
  (List.range k).any (fun col => (cx + col) % 64 == c.val && spriteBit b col)

/-- The sprite rows bs, drawn from (cx, row) on, cover the pixel (r, c) with a set bit. -/
def rowsCover (cx : Nat) (r : Fin 32) (c : Fin 64) : Nat → List Byte → Bool
  | _, [] => false
  | row, b :: bs => (row % 32 == r.val && rowCovers cx b c 8) || rowsCover cx r c (row + 1) bs

namespace Display

theorem pixel_flip (d : Display) (r r' : Fin 32) (c c' : Fin 64) :
    (d.flip r c).pixel r' c' = if r' = r ∧ c' = c then !d.pixel r c else d.pixel r' c' := by
  unfold flip pixel
  by_cases hr : r' = r
  · subst hr
    by_cases hc : c' = c
    · subst hc; simp
    · have : c.val ≠ c'.val := fun e => hc (Fin.ext e.symm)
      simp [hc, this]
  · have : r.val ≠ r'.val := fun e => hr (Fin.ext e.symm)
    simp [hr, this]

@[simp] theorem pixel_blank (r : Fin 32) (c : Fin 64) : blank.pixel r c = false := by simp [blank, pixel]

/-- Two displays with the same pixels are the same display. -/
theorem ext_pixel {d e : Display} (h : ∀ r c, d.pixel r c = e.pixel r c) : d = e := by
  refine Vector.ext fun r hr => Vector.ext fun c hc => ?_
  exact h ⟨r, hr⟩ ⟨c, hc⟩

end Display

theorem drawPixel_pixel (acc : Display × Bool) (row col : Nat) (bit : Bool) (r : Fin 32) (c : Fin 64) :
    (drawPixel acc row col bit).1.pixel r c =
      (acc.1.pixel r c ^^ (row % 32 == r.val && (col % 64 == c.val && bit))) := by
  unfold drawPixel
  cases bit with
  | false => simp
  | true =>
    simp only [if_true, Display.pixel_flip, Bool.and_true]
    by_cases h : r = Fin.ofNat 32 row ∧ c = Fin.ofNat 64 col
    · obtain ⟨rfl, rfl⟩ := h
      simp [Fin.ofNat]
    · rw [if_neg h]
      have : ¬(row % 32 = r.val ∧ col % 64 = c.val) := fun e => h ⟨Fin.ext e.1.symm, Fin.ext e.2.symm⟩
      by_cases h1 : row % 32 = r.val
      · have h2 : (col % 64 == c.val) = false := beq_false_of_ne fun e => this ⟨h1, e⟩
        simp [h2]
      · simp [beq_false_of_ne h1]

theorem drawPixel_collision (acc : Display × Bool) (row col : Nat) (bit : Bool) :
    (drawPixel acc row col bit).2 = (acc.2 || (bit && acc.1.pixel (Fin.ofNat 32 row) (Fin.ofNat 64 col))) := by
  cases bit <;> simp [drawPixel]

theorem rowCovers_succ (cx : Nat) (b : Byte) (c : Fin 64) (k : Nat) :
    rowCovers cx b c (k + 1) = (rowCovers cx b c k || ((cx + k) % 64 == c.val && spriteBit b k)) := by
  simp [rowCovers, List.range_succ]

/-- A column that the next column of the row stands on was not covered by an earlier one. -/
theorem rowCovers_fresh (cx : Nat) (b : Byte) (c : Fin 64) {k : Nat} (hk : k < 64) (h : (cx + k) % 64 = c.val) :
    rowCovers cx b c k = false := by
  simp only [rowCovers, List.any_eq_false, List.mem_range, Bool.and_eq_true, beq_iff_eq, not_and]
  intro j hj e
  omega

/-- The first k columns of a drawn row: each covered pixel is flipped, every other one stays. -/
theorem drawColumns_pixel (acc : Display × Bool) (row cx : Nat) (b : Byte) (r : Fin 32) (c : Fin 64) (k : Nat)
    (hk : k ≤ 64) :
    (((List.range k).foldl (fun a col => drawPixel a row (cx + col) (spriteBit b col)) acc).1.pixel r c) =
      (acc.1.pixel r c ^^ (row % 32 == r.val && rowCovers cx b c k)) := by
  induction k with
  | zero => simp [rowCovers]
  | succ k ih =>
    rw [List.range_succ, List.foldl_append, List.foldl_cons, List.foldl_nil, drawPixel_pixel, ih (by omega),
      rowCovers_succ]
    by_cases h : (cx + k) % 64 = c.val
    · rw [rowCovers_fresh cx b c (by omega) h]
      simp [h]
    · simp [beq_false_of_ne h]

theorem drawRow_pixel (acc : Display × Bool) (row cx : Nat) (b : Byte) (r : Fin 32) (c : Fin 64) :
    (drawRow acc row cx b).1.pixel r c = (acc.1.pixel r c ^^ (row % 32 == r.val && rowCovers cx b c 8)) :=
  drawColumns_pixel acc row cx b r c 8 (by omega)

theorem drawColumns_collision (acc : Display × Bool) (row cx : Nat) (b : Byte) (k : Nat) (hk : k ≤ 64) :
    ((List.range k).foldl (fun a col => drawPixel a row (cx + col) (spriteBit b col)) acc).2 =
      (acc.2 || (List.range k).any
        (fun col => spriteBit b col && acc.1.pixel (Fin.ofNat 32 row) (Fin.ofNat 64 (cx + col)))) := by
  induction k with
  | zero => simp
  | succ k ih =>
    rw [List.range_succ, List.foldl_append, List.foldl_cons, List.foldl_nil, drawPixel_collision, ih (by omega),
      drawColumns_pixel _ _ _ _ _ _ _ (by omega), rowCovers_fresh cx b _ (by omega) rfl]
    simp [Bool.or_assoc]

theorem drawRow_collision (acc : Display × Bool) (row cx : Nat) (b : Byte) :
    (drawRow acc row cx b).2 = (acc.2 || (List.range 8).any
      (fun col => spriteBit b col && acc.1.pixel (Fin.ofNat 32 row) (Fin.ofNat 64 (cx + col)))) :=
  drawColumns_collision acc row cx b 8 (by omega)

/-- A display row that the next sprite row stands on is not one of the rows after it. -/
theorem rowsCover_fresh (cx : Nat) (r : Fin 32) (c : Fin 64) (bs : List Byte) (row d : Nat)
    (h : (row % 32) = r.val) (hd : 0 < d) (hl : d + bs.length ≤ 32) : rowsCover cx r c (row + d) bs = false := by
  induction bs generalizing d with
  | nil => rfl
  | cons b bs ih =>
    simp only [List.length_cons] at hl
    have hne : ¬ ((row + d) % 32 = r.val) := by omega
    simpa [rowsCover, hne, Nat.add_assoc] using ih (d + 1) (by omega) (by omega)

/-- Every row of a draw: a covered pixel is flipped, every other one stays. -/
theorem drawRows_pixel (cx : Nat) (bs : List Byte) (acc : Display × Bool) (row : Nat) (r : Fin 32) (c : Fin 64)
    (hl : bs.length ≤ 32) :
    (drawRows cx acc row bs).1.pixel r c = (acc.1.pixel r c ^^ rowsCover cx r c row bs) := by
  induction bs generalizing acc row with
  | nil => simp [drawRows, rowsCover]
  | cons b bs ih =>
    simp only [List.length_cons] at hl
    rw [drawRows, ih _ _ (by omega), drawRow_pixel, rowsCover]
    by_cases h : row % 32 = r.val
    · rw [rowsCover_fresh cx r c bs row 1 h (by omega) (by omega)]
      simp [h]
    · simp [beq_false_of_ne h]

/-- The rows of a draw collide where a set sprite bit covers a pixel that was 1 before the draw. -/
theorem drawRows_collision (cx : Nat) (bs : List Byte) (acc : Display × Bool) (row : Nat) (hl : bs.length ≤ 32) :
    (drawRows cx acc row bs).2 = true ↔
      acc.2 = true ∨ ∃ k, ∃ h : k < bs.length, ∃ col < 8, spriteBit bs[k] col = true ∧
        acc.1.pixel (Fin.ofNat 32 (row + k)) (Fin.ofNat 64 (cx + col)) = true := by
  induction bs generalizing acc row with
  | nil => simp [drawRows]
  | cons b bs ih =>
    simp only [List.length_cons] at hl
    rw [drawRows, ih _ _ (by omega), drawRow_collision]
    have later : ∀ k, k < bs.length → ∀ col, (drawRow acc row cx b).1.pixel (Fin.ofNat 32 (row + 1 + k))
        (Fin.ofNat 64 (cx + col)) = acc.1.pixel (Fin.ofNat 32 (row + 1 + k)) (Fin.ofNat 64 (cx + col)) := by
      intro k hk col
      have hne : (row % 32 == (row + 1 + k) % 32) = false := beq_false_of_ne (by omega)
      rw [drawRow_pixel, show (Fin.ofNat 32 (row + 1 + k)).val = (row + 1 + k) % 32 from rfl, hne]
      simp
    constructor
    · rintro (h | ⟨k, hk, col, hc, hb, hp⟩)
      · rcases Bool.or_eq_true _ _ ▸ h with h | h
        · exact .inl h
        · obtain ⟨col, hc, hcol⟩ := List.any_eq_true.mp h
          refine .inr ⟨0, by simp, col, List.mem_range.mp hc, ?_⟩
          simpa using hcol
      · refine .inr ⟨k + 1, by simpa using hk, col, hc, by simpa using hb, ?_⟩
        rw [later k hk] at hp
        rwa [show row + (k + 1) = row + 1 + k by omega]
    · rintro (h | ⟨k, hk, col, hc, hb, hp⟩)
      · exact .inl (by simp [h])
      · cases k with
        | zero =>
          refine .inl (Bool.or_eq_true _ _ ▸ .inr (List.any_eq_true.mpr ⟨col, List.mem_range.mpr hc, ?_⟩))
          simpa using ⟨hb, hp⟩
        | succ k =>
          simp only [List.length_cons, Nat.add_lt_add_iff_right] at hk
          refine .inr ⟨k, hk, col, hc, by simpa using hb, ?_⟩
          rw [later k hk]
          rwa [show row + 1 + k = row + (k + 1) by omega]

/-- A pixel after a draw of at most 32 rows: flipped where a set sprite bit covers it, else as it was (R103). -/
theorem drawSprite_pixel (d : Display) (cx cy : Nat) (bs : List Byte) (r : Fin 32) (c : Fin 64) (hl : bs.length ≤ 32) :
    (drawSprite d cx cy bs).1.pixel r c = (d.pixel r c ^^ rowsCover cx r c cy bs) :=
  drawRows_pixel cx bs (d, false) cy r c hl

/-- The collision output of a draw (R104). -/
theorem drawSprite_collision (d : Display) (cx cy : Nat) (bs : List Byte) (hl : bs.length ≤ 32) :
    (drawSprite d cx cy bs).2 = true ↔ ∃ k, ∃ h : k < bs.length, ∃ col < 8, spriteBit bs[k] col = true ∧
      d.pixel (Fin.ofNat 32 (cy + k)) (Fin.ofNat 64 (cx + col)) = true := by
  have h := drawRows_collision cx bs (d, false) cy hl
  simp only [Bool.false_eq_true, false_or] at h
  exact h

/-- When the rows cover a pixel. -/
theorem rowsCover_iff (cx : Nat) (r : Fin 32) (c : Fin 64) (bs : List Byte) (row : Nat) :
    rowsCover cx r c row bs = true ↔ ∃ k, ∃ h : k < bs.length, ∃ col < 8,
      (row + k) % 32 = r.val ∧ (cx + col) % 64 = c.val ∧ spriteBit bs[k] col = true := by
  induction bs generalizing row with
  | nil => simp [rowsCover]
  | cons b bs ih =>
    rw [rowsCover, Bool.or_eq_true, ih]
    constructor
    · rintro (h | ⟨k, hk, col, hc, h1, h2, h3⟩)
      · simp only [Bool.and_eq_true, beq_iff_eq, rowCovers, List.any_eq_true, List.mem_range] at h
        obtain ⟨h1, col, hc, h2, h3⟩ := h
        exact ⟨0, by simp, col, hc, by simpa using h1, h2, by simpa using h3⟩
      · exact ⟨k + 1, by simpa using hk, col, hc, by rw [← h1]; congr 1; omega, h2, by simpa using h3⟩
    · rintro ⟨k, hk, col, hc, h1, h2, h3⟩
      cases k with
      | zero =>
        refine .inl ?_
        simp only [Bool.and_eq_true, beq_iff_eq, rowCovers, List.any_eq_true, List.mem_range]
        exact ⟨by simpa using h1, col, hc, h2, by simpa using h3⟩
      | succ k =>
        simp only [List.length_cons, Nat.add_lt_add_iff_right] at hk
        exact .inr ⟨k, hk, col, hc, by rw [← h1]; congr 1; omega, h2, by simpa using h3⟩

end Sys2Proof.Machine
end

