-- ==== Sys2Proof/Laws/Memory.lean ====
section
/-! SUPPORT. What reading and writing memory do (R51, R61), and that every write keeps the canonical form. -/

namespace Sys2Proof.Machine.Memory

variable (c : Config)

theorem read_insert_same (m : Memory) (a : Nat) (b : Byte) : (m.insert a b).read c a = b := by
  induction m with
  | nil => simp [insert, read]
  | cons p rest ih =>
    obtain ⟨k, v⟩ := p
    simp only [insert]
    split
    · simp [read]
    · split
      · simp [read]
      · next h => simp [read, Ne.symm h, ih]

theorem read_insert_ne (m : Memory) {a a' : Nat} (b : Byte) (h : a' ≠ a) : (m.insert a b).read c a' = m.read c a' := by
  induction m with
  | nil => simp [insert, read, Ne.symm h]
  | cons p rest ih =>
    obtain ⟨k, v⟩ := p
    simp only [insert]
    split
    · simp [read, Ne.symm h]
    · split
      · next h' => subst h'; simp [read, Ne.symm h]
      · simp [read, ih]

theorem read_erase_same (m : Memory) (a : Nat) : (m.erase a).read c a = resetByte c a := by
  induction m with
  | nil => simp [erase, read]
  | cons p rest ih =>
    obtain ⟨k, v⟩ := p
    by_cases h : k = a
    · subst h; simpa [erase] using ih
    · simpa [erase, read, h] using ih

theorem read_erase_ne (m : Memory) {a a' : Nat} (h : a' ≠ a) : (m.erase a).read c a' = m.read c a' := by
  induction m with
  | nil => simp [erase, read]
  | cons p rest ih =>
    obtain ⟨k, v⟩ := p
    by_cases hk : k = a
    · subst hk; simpa [erase, read, Ne.symm h] using ih
    · by_cases hk' : k = a'
      · subst hk'; simp [erase, read, hk]
      · simpa [erase, read, hk, hk'] using ih

/-- A byte in range reads as last written (R61). -/
theorem read_write_same (m : Memory) {a : Nat} (b : Byte) (h : a < memSize) : (m.write c a b).read c a = b := by
  unfold write
  rw [if_neg (by omega)]
  split
  · next hb => rw [read_erase_same, hb]
  · exact read_insert_same c m a b

/-- A write leaves every other byte alone. -/
theorem read_write_ne (m : Memory) {a a' : Nat} (b : Byte) (h : a' ≠ a) : (m.write c a b).read c a' = m.read c a' := by
  unfold write
  split
  · rfl
  · split
    · exact read_erase_ne c m h
    · exact read_insert_ne c m b h

/-- A byte outside the written range reads as before. -/
theorem read_writeList_outside (bs : List Byte) (m : Memory) (a : Nat) {a' : Nat} (h : a' < a ∨ a + bs.length ≤ a') :
    (m.writeList c a bs).read c a' = m.read c a' := by
  induction bs generalizing m a with
  | nil => rfl
  | cons b bs ih =>
    simp only [List.length_cons] at h
    rw [writeList, ih _ _ (by omega), read_write_ne c m b (by omega)]

/-- A byte of the written range reads as written. -/
theorem read_writeList_inside (bs : List Byte) (m : Memory) (a k : Nat) (hk : k < bs.length)
    (hin : a + bs.length ≤ memSize) : (m.writeList c a bs).read c (a + k) = bs[k] := by
  induction bs generalizing m a k with
  | nil => simp at hk
  | cons b bs ih =>
    simp only [List.length_cons] at hk hin
    cases k with
    | zero => rw [writeList, read_writeList_outside c _ _ _ (by omega)]; exact read_write_same c m b (by omega)
    | succ k =>
      have e : a + (k + 1) = (a + 1) + k := by omega
      rw [writeList, e, ih _ _ _ (by omega) (by omega)]
      rfl

theorem mem_insert {m : Memory} {a : Nat} {b : Byte} {p : Host.Cell} (h : p ∈ m.insert a b) : p = (a, b) ∨ p ∈ m := by
  induction m with
  | nil => simpa [insert] using h
  | cons q rest ih =>
    obtain ⟨k, v⟩ := q
    simp only [insert] at h
    split at h
    · simpa using h
    · split at h
      · rcases List.mem_cons.mp h with h | h
        · exact .inl h
        · exact .inr (List.mem_cons_of_mem _ h)
      · rcases List.mem_cons.mp h with h | h
        · exact .inr (by simp [h])
        · exact (ih h).imp_right (List.mem_cons_of_mem _)

theorem insert_wf {m : Memory} {a : Nat} {b : Byte} (hm : m.wf c) (ha : a < memSize) (hb : b ≠ resetByte c a) :
    (m.insert a b).wf c := by
  refine ⟨?_, fun p hp => ?_⟩
  · have hs := hm.1
    clear hm ha hb
    induction m with
    | nil => simp [insert]
    | cons q rest ih =>
      obtain ⟨k, v⟩ := q
      rw [List.pairwise_cons] at hs
      simp only [insert]
      split
      · next h =>
        refine List.pairwise_cons.mpr ⟨fun p hp => ?_, List.pairwise_cons.mpr hs⟩
        rcases List.mem_cons.mp hp with rfl | hp
        · exact h
        · exact Nat.lt_trans h (hs.1 p hp)
      · split
        · next h => subst h; exact List.pairwise_cons.mpr hs
        · next h1 h2 =>
          refine List.pairwise_cons.mpr ⟨fun p hp => ?_, ih hs.2⟩
          rcases mem_insert hp with rfl | hp
          · exact Nat.lt_of_le_of_ne (Nat.le_of_not_lt h1) (Ne.symm h2)
          · exact hs.1 p hp
  · rcases mem_insert hp with rfl | hp
    · exact ⟨ha, hb⟩
    · exact hm.2 p hp

theorem erase_wf {m : Memory} (a : Nat) (hm : m.wf c) : (m.erase a).wf c :=
  ⟨hm.1.filter _, fun p hp => hm.2 p (List.mem_filter.mp hp).1⟩

/-- Every write keeps the canonical form. -/
theorem write_wf {m : Memory} (a : Nat) (b : Byte) (hm : m.wf c) : (m.write c a b).wf c := by
  unfold write
  split
  · exact hm
  · split
    · exact erase_wf c a hm
    · next h hb => exact insert_wf c hm (by omega) hb

/-- Writing consecutive bytes keeps the canonical form. -/
theorem writeList_wf (bs : List Byte) {m : Memory} (a : Nat) (hm : m.wf c) : (m.writeList c a bs).wf c := by
  induction bs generalizing m a with
  | nil => exact hm
  | cons b bs ih => exact ih (a + 1) (write_wf c a b hm)

/-- The memory of a block right after reset is in canonical form. -/
theorem reset_wf : (State.construct c).mem.wf c := by simp [State.construct, wf]

end Sys2Proof.Machine.Memory

namespace Sys2Proof.Machine.State

/-- A byte outside the stored range reads as before (R51). -/
theorem readByte_writeBytes_outside (s : State) (a : Nat) (bs : List Byte) {a' : Nat}
    (h : a' < a ∨ a + bs.length ≤ a') : (s.writeBytes a bs).readByte a' = s.readByte a' :=
  Memory.read_writeList_outside s.cfg bs s.mem a h

/-- A byte of the stored range reads as stored (R61). -/
theorem readByte_writeBytes_inside (s : State) (a : Nat) (bs : List Byte) (k : Nat) (hk : k < bs.length)
    (hin : a + bs.length ≤ memSize) : (s.writeBytes a bs).readByte (a + k) = bs[k] :=
  Memory.read_writeList_inside s.cfg bs s.mem a k hk hin

end Sys2Proof.Machine.State
end

