-- ==== Sys2Proof/Laws/State.lean ====
section
/-! SUPPORT. One lemma per field and update of State, and what each update does to a register and a byte read afterwards. -/

namespace Sys2Proof.Machine.State

variable (s : State)

/-! ### setV -/

@[simp] theorem setV_cfg (x : Reg) (b : Byte) : (s.setV x b).cfg = s.cfg := rfl
@[simp] theorem setV_mem (x : Reg) (b : Byte) : (s.setV x b).mem = s.mem := rfl
@[simp] theorem setV_v (x : Reg) (b : Byte) : (s.setV x b).v = s.v.set x.val b x.isLt := rfl
@[simp] theorem setV_i (x : Reg) (b : Byte) : (s.setV x b).i = s.i := rfl
@[simp] theorem setV_pc (x : Reg) (b : Byte) : (s.setV x b).pc = s.pc := rfl
@[simp] theorem setV_stack (x : Reg) (b : Byte) : (s.setV x b).stack = s.stack := rfl
@[simp] theorem setV_dt (x : Reg) (b : Byte) : (s.setV x b).dt = s.dt := rfl
@[simp] theorem setV_st (x : Reg) (b : Byte) : (s.setV x b).st = s.st := rfl
@[simp] theorem setV_disp (x : Reg) (b : Byte) : (s.setV x b).disp = s.disp := rfl
@[simp] theorem setV_keys (x : Reg) (b : Byte) : (s.setV x b).keys = s.keys := rfl
@[simp] theorem setV_drawFlag (x : Reg) (b : Byte) : (s.setV x b).drawFlag = s.drawFlag := rfl
@[simp] theorem setV_soundGate (x : Reg) (b : Byte) : (s.setV x b).soundGate = s.soundGate := rfl
@[simp] theorem setV_runState (x : Reg) (b : Byte) : (s.setV x b).runState = s.runState := rfl
@[simp] theorem setV_fault (x : Reg) (b : Byte) : (s.setV x b).fault = s.fault := rfl
@[simp] theorem setV_errorLog (x : Reg) (b : Byte) : (s.setV x b).errorLog = s.errorLog := rfl
@[simp] theorem setV_loaded (x : Reg) (b : Byte) : (s.setV x b).loaded = s.loaded := rfl
@[simp] theorem setV_tickLeft (x : Reg) (b : Byte) : (s.setV x b).tickLeft = s.tickLeft := rfl
@[simp] theorem setV_hostOut (x : Reg) (b : Byte) : (s.setV x b).hostOut = s.hostOut := rfl
@[simp] theorem setV_turns (x : Reg) (b : Byte) : (s.setV x b).turns = s.turns := rfl
@[simp] theorem setV_draws (x : Reg) (b : Byte) : (s.setV x b).draws = s.draws := rfl

/-! ### setI -/

@[simp] theorem setI_cfg (a : Word) : (s.setI a).cfg = s.cfg := rfl
@[simp] theorem setI_mem (a : Word) : (s.setI a).mem = s.mem := rfl
@[simp] theorem setI_v (a : Word) : (s.setI a).v = s.v := rfl
@[simp] theorem setI_i (a : Word) : (s.setI a).i = a := rfl
@[simp] theorem setI_pc (a : Word) : (s.setI a).pc = s.pc := rfl
@[simp] theorem setI_stack (a : Word) : (s.setI a).stack = s.stack := rfl
@[simp] theorem setI_dt (a : Word) : (s.setI a).dt = s.dt := rfl
@[simp] theorem setI_st (a : Word) : (s.setI a).st = s.st := rfl
@[simp] theorem setI_disp (a : Word) : (s.setI a).disp = s.disp := rfl
@[simp] theorem setI_keys (a : Word) : (s.setI a).keys = s.keys := rfl
@[simp] theorem setI_drawFlag (a : Word) : (s.setI a).drawFlag = s.drawFlag := rfl
@[simp] theorem setI_soundGate (a : Word) : (s.setI a).soundGate = s.soundGate := rfl
@[simp] theorem setI_runState (a : Word) : (s.setI a).runState = s.runState := rfl
@[simp] theorem setI_fault (a : Word) : (s.setI a).fault = s.fault := rfl
@[simp] theorem setI_errorLog (a : Word) : (s.setI a).errorLog = s.errorLog := rfl
@[simp] theorem setI_loaded (a : Word) : (s.setI a).loaded = s.loaded := rfl
@[simp] theorem setI_tickLeft (a : Word) : (s.setI a).tickLeft = s.tickLeft := rfl
@[simp] theorem setI_hostOut (a : Word) : (s.setI a).hostOut = s.hostOut := rfl
@[simp] theorem setI_turns (a : Word) : (s.setI a).turns = s.turns := rfl
@[simp] theorem setI_draws (a : Word) : (s.setI a).draws = s.draws := rfl

/-! ### setPc -/

@[simp] theorem setPc_cfg (a : Word) : (s.setPc a).cfg = s.cfg := rfl
@[simp] theorem setPc_mem (a : Word) : (s.setPc a).mem = s.mem := rfl
@[simp] theorem setPc_v (a : Word) : (s.setPc a).v = s.v := rfl
@[simp] theorem setPc_i (a : Word) : (s.setPc a).i = s.i := rfl
@[simp] theorem setPc_pc (a : Word) : (s.setPc a).pc = a := rfl
@[simp] theorem setPc_stack (a : Word) : (s.setPc a).stack = s.stack := rfl
@[simp] theorem setPc_dt (a : Word) : (s.setPc a).dt = s.dt := rfl
@[simp] theorem setPc_st (a : Word) : (s.setPc a).st = s.st := rfl
@[simp] theorem setPc_disp (a : Word) : (s.setPc a).disp = s.disp := rfl
@[simp] theorem setPc_keys (a : Word) : (s.setPc a).keys = s.keys := rfl
@[simp] theorem setPc_drawFlag (a : Word) : (s.setPc a).drawFlag = s.drawFlag := rfl
@[simp] theorem setPc_soundGate (a : Word) : (s.setPc a).soundGate = s.soundGate := rfl
@[simp] theorem setPc_runState (a : Word) : (s.setPc a).runState = s.runState := rfl
@[simp] theorem setPc_fault (a : Word) : (s.setPc a).fault = s.fault := rfl
@[simp] theorem setPc_errorLog (a : Word) : (s.setPc a).errorLog = s.errorLog := rfl
@[simp] theorem setPc_loaded (a : Word) : (s.setPc a).loaded = s.loaded := rfl
@[simp] theorem setPc_tickLeft (a : Word) : (s.setPc a).tickLeft = s.tickLeft := rfl
@[simp] theorem setPc_hostOut (a : Word) : (s.setPc a).hostOut = s.hostOut := rfl
@[simp] theorem setPc_turns (a : Word) : (s.setPc a).turns = s.turns := rfl
@[simp] theorem setPc_draws (a : Word) : (s.setPc a).draws = s.draws := rfl

/-! ### setDt -/

@[simp] theorem setDt_cfg (b : Byte) : (s.setDt b).cfg = s.cfg := rfl
@[simp] theorem setDt_mem (b : Byte) : (s.setDt b).mem = s.mem := rfl
@[simp] theorem setDt_v (b : Byte) : (s.setDt b).v = s.v := rfl
@[simp] theorem setDt_i (b : Byte) : (s.setDt b).i = s.i := rfl
@[simp] theorem setDt_pc (b : Byte) : (s.setDt b).pc = s.pc := rfl
@[simp] theorem setDt_stack (b : Byte) : (s.setDt b).stack = s.stack := rfl
@[simp] theorem setDt_dt (b : Byte) : (s.setDt b).dt = b := rfl
@[simp] theorem setDt_st (b : Byte) : (s.setDt b).st = s.st := rfl
@[simp] theorem setDt_disp (b : Byte) : (s.setDt b).disp = s.disp := rfl
@[simp] theorem setDt_keys (b : Byte) : (s.setDt b).keys = s.keys := rfl
@[simp] theorem setDt_drawFlag (b : Byte) : (s.setDt b).drawFlag = s.drawFlag := rfl
@[simp] theorem setDt_soundGate (b : Byte) : (s.setDt b).soundGate = s.soundGate := rfl
@[simp] theorem setDt_runState (b : Byte) : (s.setDt b).runState = s.runState := rfl
@[simp] theorem setDt_fault (b : Byte) : (s.setDt b).fault = s.fault := rfl
@[simp] theorem setDt_errorLog (b : Byte) : (s.setDt b).errorLog = s.errorLog := rfl
@[simp] theorem setDt_loaded (b : Byte) : (s.setDt b).loaded = s.loaded := rfl
@[simp] theorem setDt_tickLeft (b : Byte) : (s.setDt b).tickLeft = s.tickLeft := rfl
@[simp] theorem setDt_hostOut (b : Byte) : (s.setDt b).hostOut = s.hostOut := rfl
@[simp] theorem setDt_turns (b : Byte) : (s.setDt b).turns = s.turns := rfl
@[simp] theorem setDt_draws (b : Byte) : (s.setDt b).draws = s.draws := rfl

/-! ### setSt -/

@[simp] theorem setSt_cfg (b : Byte) : (s.setSt b).cfg = s.cfg := rfl
@[simp] theorem setSt_mem (b : Byte) : (s.setSt b).mem = s.mem := rfl
@[simp] theorem setSt_v (b : Byte) : (s.setSt b).v = s.v := rfl
@[simp] theorem setSt_i (b : Byte) : (s.setSt b).i = s.i := rfl
@[simp] theorem setSt_pc (b : Byte) : (s.setSt b).pc = s.pc := rfl
@[simp] theorem setSt_stack (b : Byte) : (s.setSt b).stack = s.stack := rfl
@[simp] theorem setSt_dt (b : Byte) : (s.setSt b).dt = s.dt := rfl
@[simp] theorem setSt_st (b : Byte) : (s.setSt b).st = b := rfl
@[simp] theorem setSt_disp (b : Byte) : (s.setSt b).disp = s.disp := rfl
@[simp] theorem setSt_keys (b : Byte) : (s.setSt b).keys = s.keys := rfl
@[simp] theorem setSt_drawFlag (b : Byte) : (s.setSt b).drawFlag = s.drawFlag := rfl
@[simp] theorem setSt_soundGate (b : Byte) : (s.setSt b).soundGate = s.soundGate := rfl
@[simp] theorem setSt_runState (b : Byte) : (s.setSt b).runState = s.runState := rfl
@[simp] theorem setSt_fault (b : Byte) : (s.setSt b).fault = s.fault := rfl
@[simp] theorem setSt_errorLog (b : Byte) : (s.setSt b).errorLog = s.errorLog := rfl
@[simp] theorem setSt_loaded (b : Byte) : (s.setSt b).loaded = s.loaded := rfl
@[simp] theorem setSt_tickLeft (b : Byte) : (s.setSt b).tickLeft = s.tickLeft := rfl
@[simp] theorem setSt_hostOut (b : Byte) : (s.setSt b).hostOut = s.hostOut := rfl
@[simp] theorem setSt_turns (b : Byte) : (s.setSt b).turns = s.turns := rfl
@[simp] theorem setSt_draws (b : Byte) : (s.setSt b).draws = s.draws := rfl

/-! ### setStack -/

@[simp] theorem setStack_cfg (l : List Word) : (s.setStack l).cfg = s.cfg := rfl
@[simp] theorem setStack_mem (l : List Word) : (s.setStack l).mem = s.mem := rfl
@[simp] theorem setStack_v (l : List Word) : (s.setStack l).v = s.v := rfl
@[simp] theorem setStack_i (l : List Word) : (s.setStack l).i = s.i := rfl
@[simp] theorem setStack_pc (l : List Word) : (s.setStack l).pc = s.pc := rfl
@[simp] theorem setStack_stack (l : List Word) : (s.setStack l).stack = l := rfl
@[simp] theorem setStack_dt (l : List Word) : (s.setStack l).dt = s.dt := rfl
@[simp] theorem setStack_st (l : List Word) : (s.setStack l).st = s.st := rfl
@[simp] theorem setStack_disp (l : List Word) : (s.setStack l).disp = s.disp := rfl
@[simp] theorem setStack_keys (l : List Word) : (s.setStack l).keys = s.keys := rfl
@[simp] theorem setStack_drawFlag (l : List Word) : (s.setStack l).drawFlag = s.drawFlag := rfl
@[simp] theorem setStack_soundGate (l : List Word) : (s.setStack l).soundGate = s.soundGate := rfl
@[simp] theorem setStack_runState (l : List Word) : (s.setStack l).runState = s.runState := rfl
@[simp] theorem setStack_fault (l : List Word) : (s.setStack l).fault = s.fault := rfl
@[simp] theorem setStack_errorLog (l : List Word) : (s.setStack l).errorLog = s.errorLog := rfl
@[simp] theorem setStack_loaded (l : List Word) : (s.setStack l).loaded = s.loaded := rfl
@[simp] theorem setStack_tickLeft (l : List Word) : (s.setStack l).tickLeft = s.tickLeft := rfl
@[simp] theorem setStack_hostOut (l : List Word) : (s.setStack l).hostOut = s.hostOut := rfl
@[simp] theorem setStack_turns (l : List Word) : (s.setStack l).turns = s.turns := rfl
@[simp] theorem setStack_draws (l : List Word) : (s.setStack l).draws = s.draws := rfl

/-! ### setDisp -/

@[simp] theorem setDisp_cfg (d : Display) : (s.setDisp d).cfg = s.cfg := rfl
@[simp] theorem setDisp_mem (d : Display) : (s.setDisp d).mem = s.mem := rfl
@[simp] theorem setDisp_v (d : Display) : (s.setDisp d).v = s.v := rfl
@[simp] theorem setDisp_i (d : Display) : (s.setDisp d).i = s.i := rfl
@[simp] theorem setDisp_pc (d : Display) : (s.setDisp d).pc = s.pc := rfl
@[simp] theorem setDisp_stack (d : Display) : (s.setDisp d).stack = s.stack := rfl
@[simp] theorem setDisp_dt (d : Display) : (s.setDisp d).dt = s.dt := rfl
@[simp] theorem setDisp_st (d : Display) : (s.setDisp d).st = s.st := rfl
@[simp] theorem setDisp_disp (d : Display) : (s.setDisp d).disp = d := rfl
@[simp] theorem setDisp_keys (d : Display) : (s.setDisp d).keys = s.keys := rfl
@[simp] theorem setDisp_drawFlag (d : Display) : (s.setDisp d).drawFlag = true := rfl
@[simp] theorem setDisp_soundGate (d : Display) : (s.setDisp d).soundGate = s.soundGate := rfl
@[simp] theorem setDisp_runState (d : Display) : (s.setDisp d).runState = s.runState := rfl
@[simp] theorem setDisp_fault (d : Display) : (s.setDisp d).fault = s.fault := rfl
@[simp] theorem setDisp_errorLog (d : Display) : (s.setDisp d).errorLog = s.errorLog := rfl
@[simp] theorem setDisp_loaded (d : Display) : (s.setDisp d).loaded = s.loaded := rfl
@[simp] theorem setDisp_tickLeft (d : Display) : (s.setDisp d).tickLeft = s.tickLeft := rfl
@[simp] theorem setDisp_hostOut (d : Display) : (s.setDisp d).hostOut = s.hostOut := rfl
@[simp] theorem setDisp_turns (d : Display) : (s.setDisp d).turns = s.turns := rfl
@[simp] theorem setDisp_draws (d : Display) : (s.setDisp d).draws = s.draws := rfl

/-! ### takeDraw -/

@[simp] theorem takeDraw_cfg : (s.takeDraw).cfg = s.cfg := rfl
@[simp] theorem takeDraw_mem : (s.takeDraw).mem = s.mem := rfl
@[simp] theorem takeDraw_v : (s.takeDraw).v = s.v := rfl
@[simp] theorem takeDraw_i : (s.takeDraw).i = s.i := rfl
@[simp] theorem takeDraw_pc : (s.takeDraw).pc = s.pc := rfl
@[simp] theorem takeDraw_stack : (s.takeDraw).stack = s.stack := rfl
@[simp] theorem takeDraw_dt : (s.takeDraw).dt = s.dt := rfl
@[simp] theorem takeDraw_st : (s.takeDraw).st = s.st := rfl
@[simp] theorem takeDraw_disp : (s.takeDraw).disp = s.disp := rfl
@[simp] theorem takeDraw_keys : (s.takeDraw).keys = s.keys := rfl
@[simp] theorem takeDraw_drawFlag : (s.takeDraw).drawFlag = s.drawFlag := rfl
@[simp] theorem takeDraw_soundGate : (s.takeDraw).soundGate = s.soundGate := rfl
@[simp] theorem takeDraw_runState : (s.takeDraw).runState = s.runState := rfl
@[simp] theorem takeDraw_fault : (s.takeDraw).fault = s.fault := rfl
@[simp] theorem takeDraw_errorLog : (s.takeDraw).errorLog = s.errorLog := rfl
@[simp] theorem takeDraw_loaded : (s.takeDraw).loaded = s.loaded := rfl
@[simp] theorem takeDraw_tickLeft : (s.takeDraw).tickLeft = s.tickLeft := rfl
@[simp] theorem takeDraw_hostOut : (s.takeDraw).hostOut = s.hostOut := rfl
@[simp] theorem takeDraw_turns : (s.takeDraw).turns = s.turns := rfl
@[simp] theorem takeDraw_draws : (s.takeDraw).draws = s.draws + 1 := rfl

/-! ### writeBytes -/

@[simp] theorem writeBytes_cfg (a : Nat) (bs : List Byte) : (s.writeBytes a bs).cfg = s.cfg := rfl
@[simp] theorem writeBytes_mem (a : Nat) (bs : List Byte) : (s.writeBytes a bs).mem = s.mem.writeList s.cfg a bs := rfl
@[simp] theorem writeBytes_v (a : Nat) (bs : List Byte) : (s.writeBytes a bs).v = s.v := rfl
@[simp] theorem writeBytes_i (a : Nat) (bs : List Byte) : (s.writeBytes a bs).i = s.i := rfl
@[simp] theorem writeBytes_pc (a : Nat) (bs : List Byte) : (s.writeBytes a bs).pc = s.pc := rfl
@[simp] theorem writeBytes_stack (a : Nat) (bs : List Byte) : (s.writeBytes a bs).stack = s.stack := rfl
@[simp] theorem writeBytes_dt (a : Nat) (bs : List Byte) : (s.writeBytes a bs).dt = s.dt := rfl
@[simp] theorem writeBytes_st (a : Nat) (bs : List Byte) : (s.writeBytes a bs).st = s.st := rfl
@[simp] theorem writeBytes_disp (a : Nat) (bs : List Byte) : (s.writeBytes a bs).disp = s.disp := rfl
@[simp] theorem writeBytes_keys (a : Nat) (bs : List Byte) : (s.writeBytes a bs).keys = s.keys := rfl
@[simp] theorem writeBytes_drawFlag (a : Nat) (bs : List Byte) : (s.writeBytes a bs).drawFlag = s.drawFlag := rfl
@[simp] theorem writeBytes_soundGate (a : Nat) (bs : List Byte) : (s.writeBytes a bs).soundGate = s.soundGate := rfl
@[simp] theorem writeBytes_runState (a : Nat) (bs : List Byte) : (s.writeBytes a bs).runState = s.runState := rfl
@[simp] theorem writeBytes_fault (a : Nat) (bs : List Byte) : (s.writeBytes a bs).fault = s.fault := rfl
@[simp] theorem writeBytes_errorLog (a : Nat) (bs : List Byte) : (s.writeBytes a bs).errorLog = s.errorLog := rfl
@[simp] theorem writeBytes_loaded (a : Nat) (bs : List Byte) : (s.writeBytes a bs).loaded = s.loaded := rfl
@[simp] theorem writeBytes_tickLeft (a : Nat) (bs : List Byte) : (s.writeBytes a bs).tickLeft = s.tickLeft := rfl
@[simp] theorem writeBytes_hostOut (a : Nat) (bs : List Byte) : (s.writeBytes a bs).hostOut = s.hostOut := rfl
@[simp] theorem writeBytes_turns (a : Nat) (bs : List Byte) : (s.writeBytes a bs).turns = s.turns := rfl
@[simp] theorem writeBytes_draws (a : Nat) (bs : List Byte) : (s.writeBytes a bs).draws = s.draws := rfl

/-! ### setFlag and setResultFlag: updates of the registers only -/

@[simp] theorem setFlag_cfg (b : Byte) : (s.setFlag b).cfg = s.cfg := rfl
@[simp] theorem setResultFlag_cfg (x : Reg) (b f : Byte) : (s.setResultFlag x b f).cfg = s.cfg := rfl
@[simp] theorem setFlag_mem (b : Byte) : (s.setFlag b).mem = s.mem := rfl
@[simp] theorem setResultFlag_mem (x : Reg) (b f : Byte) : (s.setResultFlag x b f).mem = s.mem := rfl
@[simp] theorem setFlag_i (b : Byte) : (s.setFlag b).i = s.i := rfl
@[simp] theorem setResultFlag_i (x : Reg) (b f : Byte) : (s.setResultFlag x b f).i = s.i := rfl
@[simp] theorem setFlag_pc (b : Byte) : (s.setFlag b).pc = s.pc := rfl
@[simp] theorem setResultFlag_pc (x : Reg) (b f : Byte) : (s.setResultFlag x b f).pc = s.pc := rfl
@[simp] theorem setFlag_stack (b : Byte) : (s.setFlag b).stack = s.stack := rfl
@[simp] theorem setResultFlag_stack (x : Reg) (b f : Byte) : (s.setResultFlag x b f).stack = s.stack := rfl
@[simp] theorem setFlag_dt (b : Byte) : (s.setFlag b).dt = s.dt := rfl
@[simp] theorem setResultFlag_dt (x : Reg) (b f : Byte) : (s.setResultFlag x b f).dt = s.dt := rfl
@[simp] theorem setFlag_st (b : Byte) : (s.setFlag b).st = s.st := rfl
@[simp] theorem setResultFlag_st (x : Reg) (b f : Byte) : (s.setResultFlag x b f).st = s.st := rfl
@[simp] theorem setFlag_disp (b : Byte) : (s.setFlag b).disp = s.disp := rfl
@[simp] theorem setResultFlag_disp (x : Reg) (b f : Byte) : (s.setResultFlag x b f).disp = s.disp := rfl
@[simp] theorem setFlag_keys (b : Byte) : (s.setFlag b).keys = s.keys := rfl
@[simp] theorem setResultFlag_keys (x : Reg) (b f : Byte) : (s.setResultFlag x b f).keys = s.keys := rfl
@[simp] theorem setFlag_drawFlag (b : Byte) : (s.setFlag b).drawFlag = s.drawFlag := rfl
@[simp] theorem setResultFlag_drawFlag (x : Reg) (b f : Byte) : (s.setResultFlag x b f).drawFlag = s.drawFlag := rfl
@[simp] theorem setFlag_soundGate (b : Byte) : (s.setFlag b).soundGate = s.soundGate := rfl
@[simp] theorem setResultFlag_soundGate (x : Reg) (b f : Byte) : (s.setResultFlag x b f).soundGate = s.soundGate := rfl
@[simp] theorem setFlag_runState (b : Byte) : (s.setFlag b).runState = s.runState := rfl
@[simp] theorem setResultFlag_runState (x : Reg) (b f : Byte) : (s.setResultFlag x b f).runState = s.runState := rfl
@[simp] theorem setFlag_fault (b : Byte) : (s.setFlag b).fault = s.fault := rfl
@[simp] theorem setResultFlag_fault (x : Reg) (b f : Byte) : (s.setResultFlag x b f).fault = s.fault := rfl
@[simp] theorem setFlag_errorLog (b : Byte) : (s.setFlag b).errorLog = s.errorLog := rfl
@[simp] theorem setResultFlag_errorLog (x : Reg) (b f : Byte) : (s.setResultFlag x b f).errorLog = s.errorLog := rfl
@[simp] theorem setFlag_loaded (b : Byte) : (s.setFlag b).loaded = s.loaded := rfl
@[simp] theorem setResultFlag_loaded (x : Reg) (b f : Byte) : (s.setResultFlag x b f).loaded = s.loaded := rfl
@[simp] theorem setFlag_tickLeft (b : Byte) : (s.setFlag b).tickLeft = s.tickLeft := rfl
@[simp] theorem setResultFlag_tickLeft (x : Reg) (b f : Byte) : (s.setResultFlag x b f).tickLeft = s.tickLeft := rfl
@[simp] theorem setFlag_hostOut (b : Byte) : (s.setFlag b).hostOut = s.hostOut := rfl
@[simp] theorem setResultFlag_hostOut (x : Reg) (b f : Byte) : (s.setResultFlag x b f).hostOut = s.hostOut := rfl
@[simp] theorem setFlag_turns (b : Byte) : (s.setFlag b).turns = s.turns := rfl
@[simp] theorem setResultFlag_turns (x : Reg) (b f : Byte) : (s.setResultFlag x b f).turns = s.turns := rfl
@[simp] theorem setFlag_draws (b : Byte) : (s.setFlag b).draws = s.draws := rfl
@[simp] theorem setResultFlag_draws (x : Reg) (b f : Byte) : (s.setResultFlag x b f).draws = s.draws := rfl

/-! ### skipIf and advanceI: one register or none -/

@[simp] theorem skipIf_cfg (c : Bool) : (s.skipIf c).cfg = s.cfg := by cases c <;> rfl
@[simp] theorem advanceI_cfg (x : Reg) : (s.advanceI x).cfg = s.cfg := by unfold advanceI; split <;> rfl
@[simp] theorem skipIf_mem (c : Bool) : (s.skipIf c).mem = s.mem := by cases c <;> rfl
@[simp] theorem advanceI_mem (x : Reg) : (s.advanceI x).mem = s.mem := by unfold advanceI; split <;> rfl
@[simp] theorem skipIf_v (c : Bool) : (s.skipIf c).v = s.v := by cases c <;> rfl
@[simp] theorem advanceI_v (x : Reg) : (s.advanceI x).v = s.v := by unfold advanceI; split <;> rfl
@[simp] theorem skipIf_i (c : Bool) : (s.skipIf c).i = s.i := by cases c <;> rfl
@[simp] theorem advanceI_pc (x : Reg) : (s.advanceI x).pc = s.pc := by unfold advanceI; split <;> rfl
@[simp] theorem skipIf_stack (c : Bool) : (s.skipIf c).stack = s.stack := by cases c <;> rfl
@[simp] theorem advanceI_stack (x : Reg) : (s.advanceI x).stack = s.stack := by unfold advanceI; split <;> rfl
@[simp] theorem skipIf_dt (c : Bool) : (s.skipIf c).dt = s.dt := by cases c <;> rfl
@[simp] theorem advanceI_dt (x : Reg) : (s.advanceI x).dt = s.dt := by unfold advanceI; split <;> rfl
@[simp] theorem skipIf_st (c : Bool) : (s.skipIf c).st = s.st := by cases c <;> rfl
@[simp] theorem advanceI_st (x : Reg) : (s.advanceI x).st = s.st := by unfold advanceI; split <;> rfl
@[simp] theorem skipIf_disp (c : Bool) : (s.skipIf c).disp = s.disp := by cases c <;> rfl
@[simp] theorem advanceI_disp (x : Reg) : (s.advanceI x).disp = s.disp := by unfold advanceI; split <;> rfl
@[simp] theorem skipIf_keys (c : Bool) : (s.skipIf c).keys = s.keys := by cases c <;> rfl
@[simp] theorem advanceI_keys (x : Reg) : (s.advanceI x).keys = s.keys := by unfold advanceI; split <;> rfl
@[simp] theorem skipIf_drawFlag (c : Bool) : (s.skipIf c).drawFlag = s.drawFlag := by cases c <;> rfl
@[simp] theorem advanceI_drawFlag (x : Reg) : (s.advanceI x).drawFlag = s.drawFlag := by unfold advanceI; split <;> rfl
@[simp] theorem skipIf_soundGate (c : Bool) : (s.skipIf c).soundGate = s.soundGate := by cases c <;> rfl
@[simp] theorem advanceI_soundGate (x : Reg) : (s.advanceI x).soundGate = s.soundGate := by unfold advanceI; split <;> rfl
@[simp] theorem skipIf_runState (c : Bool) : (s.skipIf c).runState = s.runState := by cases c <;> rfl
@[simp] theorem advanceI_runState (x : Reg) : (s.advanceI x).runState = s.runState := by unfold advanceI; split <;> rfl
@[simp] theorem skipIf_fault (c : Bool) : (s.skipIf c).fault = s.fault := by cases c <;> rfl
@[simp] theorem advanceI_fault (x : Reg) : (s.advanceI x).fault = s.fault := by unfold advanceI; split <;> rfl
@[simp] theorem skipIf_errorLog (c : Bool) : (s.skipIf c).errorLog = s.errorLog := by cases c <;> rfl
@[simp] theorem advanceI_errorLog (x : Reg) : (s.advanceI x).errorLog = s.errorLog := by unfold advanceI; split <;> rfl
@[simp] theorem skipIf_loaded (c : Bool) : (s.skipIf c).loaded = s.loaded := by cases c <;> rfl
@[simp] theorem advanceI_loaded (x : Reg) : (s.advanceI x).loaded = s.loaded := by unfold advanceI; split <;> rfl
@[simp] theorem skipIf_tickLeft (c : Bool) : (s.skipIf c).tickLeft = s.tickLeft := by cases c <;> rfl
@[simp] theorem advanceI_tickLeft (x : Reg) : (s.advanceI x).tickLeft = s.tickLeft := by unfold advanceI; split <;> rfl
@[simp] theorem skipIf_hostOut (c : Bool) : (s.skipIf c).hostOut = s.hostOut := by cases c <;> rfl
@[simp] theorem advanceI_hostOut (x : Reg) : (s.advanceI x).hostOut = s.hostOut := by unfold advanceI; split <;> rfl
@[simp] theorem skipIf_turns (c : Bool) : (s.skipIf c).turns = s.turns := by cases c <;> rfl
@[simp] theorem advanceI_turns (x : Reg) : (s.advanceI x).turns = s.turns := by unfold advanceI; split <;> rfl
@[simp] theorem skipIf_draws (c : Bool) : (s.skipIf c).draws = s.draws := by cases c <;> rfl
@[simp] theorem advanceI_draws (x : Reg) : (s.advanceI x).draws = s.draws := by unfold advanceI; split <;> rfl

theorem skipIf_pc (c : Bool) : (s.skipIf c).pc = if c then s.pc + 2 else s.pc := by cases c <;> rfl

theorem advanceI_i (x : Reg) : (s.advanceI x).i =
    if s.cfg.loadStoreQuirk then BitVec.ofNat 16 ((s.i.toNat + x.val + 1) % 4096) else s.i := by
  unfold advanceI; split <;> rfl

/-! ### Registers read after an update -/

theorem getV_of_v {s t : State} (h : t.v = s.v) (r : Reg) : t.getV r = s.getV r := by simp [getV, h]

@[simp] theorem getV_setV_same (x : Reg) (b : Byte) : (s.setV x b).getV x = b := by
  simp [getV, setV]

theorem getV_setV_ne {x r : Reg} (b : Byte) (h : r ≠ x) : (s.setV x b).getV r = s.getV r := by
  have h' : x.val ≠ r.val := fun e => h (Fin.ext e.symm)
  simp [getV, setV, h']

theorem getV_setV (x r : Reg) (b : Byte) : (s.setV x b).getV r = if r = x then b else s.getV r := by
  by_cases h : r = x
  · subst h; simp
  · simp [h, getV_setV_ne]

@[simp] theorem getV_setFlag_vF (b : Byte) : (s.setFlag b).getV vF = b := getV_setV_same s vF b

theorem getV_setFlag_ne {r : Reg} (b : Byte) (h : r ≠ vF) : (s.setFlag b).getV r = s.getV r := getV_setV_ne s b h

/-- VF ends as the flag, whatever the destination (R23). -/
@[simp] theorem getV_setResultFlag_vF (x : Reg) (b f : Byte) : (s.setResultFlag x b f).getV vF = f :=
  getV_setFlag_vF _ f

/-- A destination other than VF ends as the result (R23). -/
theorem getV_setResultFlag_dest {x : Reg} (b f : Byte) (h : x ≠ vF) : (s.setResultFlag x b f).getV x = b := by
  rw [setResultFlag, getV_setFlag_ne _ _ h, getV_setV_same]

theorem getV_setResultFlag_ne {x r : Reg} (b f : Byte) (h : r ≠ x) (hf : r ≠ vF) :
    (s.setResultFlag x b f).getV r = s.getV r := by
  rw [setResultFlag, getV_setFlag_ne _ _ hf, getV_setV_ne _ _ h]

@[simp] theorem getV_setI (a : Word) (r : Reg) : (s.setI a).getV r = s.getV r := rfl
@[simp] theorem getV_setPc (a : Word) (r : Reg) : (s.setPc a).getV r = s.getV r := rfl
@[simp] theorem getV_setDt (b : Byte) (r : Reg) : (s.setDt b).getV r = s.getV r := rfl
@[simp] theorem getV_setSt (b : Byte) (r : Reg) : (s.setSt b).getV r = s.getV r := rfl
@[simp] theorem getV_setStack (l : List Word) (r : Reg) : (s.setStack l).getV r = s.getV r := rfl
@[simp] theorem getV_setDisp (d : Display) (r : Reg) : (s.setDisp d).getV r = s.getV r := rfl
@[simp] theorem getV_takeDraw (r : Reg) : (s.takeDraw).getV r = s.getV r := rfl
@[simp] theorem getV_writeBytes (a : Nat) (bs : List Byte) (r : Reg) : (s.writeBytes a bs).getV r = s.getV r := rfl
@[simp] theorem getV_skipIf (c : Bool) (r : Reg) : (s.skipIf c).getV r = s.getV r := by cases c <;> rfl
@[simp] theorem getV_advanceI (x r : Reg) : (s.advanceI x).getV r = s.getV r := by unfold advanceI; split <;> rfl

/-! ### Bytes read after an update -/

theorem readByte_of_mem {s t : State} (hc : t.cfg = s.cfg) (h : t.mem = s.mem) (a : Nat) :
    t.readByte a = s.readByte a := by simp [readByte, hc, h]

@[simp] theorem readByte_setV (x : Reg) (b : Byte) (a : Nat) : (s.setV x b).readByte a = s.readByte a := rfl
@[simp] theorem readByte_setI (w : Word) (a : Nat) : (s.setI w).readByte a = s.readByte a := rfl
@[simp] theorem readByte_setPc (w : Word) (a : Nat) : (s.setPc w).readByte a = s.readByte a := rfl
@[simp] theorem readByte_setDt (b : Byte) (a : Nat) : (s.setDt b).readByte a = s.readByte a := rfl
@[simp] theorem readByte_setSt (b : Byte) (a : Nat) : (s.setSt b).readByte a = s.readByte a := rfl
@[simp] theorem readByte_setStack (l : List Word) (a : Nat) : (s.setStack l).readByte a = s.readByte a := rfl
@[simp] theorem readByte_setDisp (d : Display) (a : Nat) : (s.setDisp d).readByte a = s.readByte a := rfl
@[simp] theorem readByte_takeDraw (a : Nat) : (s.takeDraw).readByte a = s.readByte a := rfl
@[simp] theorem readByte_setFlag (b : Byte) (a : Nat) : (s.setFlag b).readByte a = s.readByte a := rfl
@[simp] theorem readByte_setResultFlag (x : Reg) (b f : Byte) (a : Nat) :
    (s.setResultFlag x b f).readByte a = s.readByte a := rfl
@[simp] theorem readByte_skipIf (c : Bool) (a : Nat) : (s.skipIf c).readByte a = s.readByte a := by cases c <;> rfl
@[simp] theorem readByte_advanceI (x : Reg) (a : Nat) : (s.advanceI x).readByte a = s.readByte a := by
  unfold advanceI; split <;> rfl

end Sys2Proof.Machine.State
end

