-- ==== Sys2Proof/Laws/Ops.lean ====
section
/-! SUPPORT. What each shared operation can do: raise and its dispatch, the stack, the operand checks, fetch and the tick boundary. -/

namespace Sys2Proof.Machine

@[simp] theorem andThen_next (s : State) (f : State → Out) : andThen (.next s) f = f s := rfl

@[simp] theorem andThen_fault (r : Fault) (f : State → Out) : andThen (.fault r) f = .fault r := rfl

@[simp] theorem andThen_refused (r : Refusal) (f : State → Out) : andThen (.refused r) f = .refused r := rfl

/-! ### Taking an error -/

/-- Under halt the report is logged and held, and the block is Faulted; under skip it is logged. Nothing else changes. -/
theorem dispatch_eq (p : ErrorPolicy) (e : RunError) (ia : Word) (w : Option Word) (s : State) :
    (p = .halt ∧ dispatch p e ia w s =
      { s with errorLog := s.errorLog ++ [report e ia w], fault := some (report e ia w), runState := .faulted }) ∨
    (p = .skip ∧ dispatch p e ia w s = { s with errorLog := s.errorLog ++ [report e ia w] }) := by
  cases p
  · exact .inl ⟨rfl, rfl⟩
  · exact .inr ⟨rfl, rfl⟩

@[simp] theorem dispatch_errorLog (p : ErrorPolicy) (e : RunError) (ia : Word) (w : Option Word) (s : State) :
    (dispatch p e ia w s).errorLog = s.errorLog ++ [report e ia w] := by cases p <;> rfl

/-- A dispatched error is taken under its policy, and nothing else changes (R10, R223). -/
theorem dispatch_taken (p : ErrorPolicy) (e : RunError) (ia : Word) (w : Option Word) (s : State) :
    ErrorTaken p (report e ia w) s (dispatch p e ia w s) := by
  cases p <;> simp [dispatch, ErrorTaken, SameRegs, SameMem, SameTimers, SameDisplay, State.getV, State.readByte]

/-- An instruction that may raise ends in its result or in the dispatched error. -/
theorem conclude_cases (w : Word) (s : State) (r : Except RunError State) :
    (∃ t, r = .ok t ∧ conclude w s r = .next t) ∨
    (∃ e, r = .error e ∧ conclude w s r = .next (raiseExecute e w s)) := by
  cases r with
  | ok t => exact .inl ⟨t, rfl, rfl⟩
  | error e => exact .inr ⟨e, rfl, rfl⟩

@[simp] theorem conclude_ok (w : Word) (s t : State) : conclude w s (.ok t) = .next t := rfl

@[simp] theorem conclude_error (w : Word) (s : State) (e : RunError) :
    conclude w s (.error e) = .next (raiseExecute e w s) := rfl

/-- The recorded cause of a run-time error is never ProgramTooLarge (R262). -/
theorem report_cause (e : RunError) (ia : Word) (w : Option Word) : (report e ia w).cause ≠ .programTooLarge := by
  cases e <;> simp [report, RunError.cause]

/-! ### The stack -/

theorem push_cases (s : State) (a : Word) :
    (s.stackFull = true ∧ s.push a = .error (.stackOverflow a)) ∨
    (s.stackFull = false ∧ s.push a = .ok (s.setStack (s.stack ++ [a]))) := by
  unfold State.push
  cases h : s.stackFull <;> simp

theorem pop_nil {s : State} (h : s.stack = []) : s.pop = none := by simp [State.pop, h]

theorem pop_append {s : State} {l : List Word} {a : Word} (h : s.stack = l ++ [a]) :
    s.pop = some (a, s.setStack l) := by simp [State.pop, h]

/-- What pop gives is the last entry, and the rest stays on the stack. -/
theorem pop_some {s t : State} {a : Word} (h : s.pop = some (a, t)) : s.stack = t.stack ++ [a] ∧ t = s.setStack t.stack := by
  unfold State.pop at h
  split at h
  · simp at h
  · next b hb =>
    simp only [Option.some.injEq, Prod.mk.injEq] at h
    obtain ⟨rfl, rfl⟩ := h
    obtain ⟨l, hl⟩ := List.getLast?_eq_some_iff.mp hb
    constructor
    · simp [hl]
    · simp

/-! ### Operand checks and forms -/

theorem spanFits_iff (a n : Nat) : spanFits a n = true ↔ n = 0 ∨ a + n ≤ 4096 := by
  simp [spanFits, memSize]

theorem keyIndex_cases (b : Byte) :
    (∃ h : b.toNat < 16, keyIndex b = .ok ⟨b.toNat, h⟩) ∨ (16 ≤ b.toNat ∧ keyIndex b = .error (.outOfBounds b.toNat)) := by
  unfold keyIndex
  by_cases h : b.toNat < 16
  · exact .inl ⟨h, by simp [h]⟩
  · exact .inr ⟨by omega, by simp [h]⟩

@[simp] theorem span_length (s : State) (n : Nat) : (s.span n).length = n := by simp [State.span]

theorem span_getElem (s : State) (n k : Nat) (h : k < (s.span n).length) :
    (s.span n)[k] = s.readByte (s.i.toNat + k) := by simp [State.span, State.element]

@[simp] theorem regsUpTo_length (s : State) (x : Reg) : (s.regsUpTo x).length = x.val + 1 := by simp [State.regsUpTo]

theorem regsUpTo_getElem (s : State) (x : Reg) (k : Nat) (h : k < (s.regsUpTo x).length) (hk : k < 16) :
    (s.regsUpTo x)[k] = s.getV ⟨k, hk⟩ := by
  have : Fin.ofNat 16 k = ⟨k, hk⟩ := Fin.ext (Nat.mod_eq_of_lt hk)
  simp only [State.regsUpTo, List.getElem_map, List.getElem_range]
  exact congrArg s.getV this

theorem loadedRegs_getElem (s : State) (x r : Reg) :
    (s.loadedRegs x)[r.val] = if r ≤ x then s.readByte (s.i.toNat + r.val) else s.getV r := by
  simp [State.loadedRegs, State.element]

theorem mem_pressed (s : State) (k : Key) : k ∈ s.pressed ↔ s.keys[k.val] = true := by simp [State.pressed]

/-- The picked key is one of the pressed ones; none is picked exactly when none is pressed. -/
theorem pickKey_cases (choice : Nat) (l : List Key) :
    (l = [] ∧ pickKey choice l = none) ∨ (∃ k ∈ l, pickKey choice l = some k) := by
  cases l with
  | nil => exact .inl ⟨rfl, by simp [pickKey]⟩
  | cons k l =>
    have h : choice % (k :: l).length < (k :: l).length := Nat.mod_lt _ (by simp)
    exact .inr ⟨_, List.getElem_mem h, by simp [pickKey]⟩

/-! ### Fetch -/

/-- A fetch reads the word at PC and advances PC by 2, or raises the first address beyond memory (R80). -/
theorem fetch_cases (s : State) :
    (s.pc.toNat ≤ 4094 ∧ fetch s = .ok (s.fetchWord, s.setPc (s.pc + 2))) ∨
    (s.pc.toNat = 4095 ∧ fetch s = .error (.outOfBounds 4096)) ∨
    (4096 ≤ s.pc.toNat ∧ fetch s = .error (.outOfBounds s.pc.toNat)) := by
  unfold fetch State.memRead State.fetchWord
  by_cases h : s.pc.toNat ≤ 4094
  · exact .inl ⟨h, by simp [show s.pc.toNat ≤ 4095 by omega, show s.pc.toNat < 4095 by omega]⟩
  · by_cases h' : s.pc.toNat = 4095
    · exact .inr (.inl ⟨h', by simp [h']⟩)
    · exact .inr (.inr ⟨by omega, by simp [show ¬ s.pc.toNat ≤ 4095 by omega]⟩)

/-! ### The frame driver -/

theorem closeTick_cases (s : State) :
    (s.tickLeft = some 0 ∧ s.runState = .running ∧ closeTick s = tickBoundary s) ∨
    (¬ (s.tickLeft = some 0 ∧ s.runState = .running) ∧ closeTick s = s) := by
  unfold closeTick
  by_cases h : s.tickLeft = some 0 ∧ s.runState = .running
  · exact .inl ⟨h.1, h.2, if_pos h⟩
  · exact .inr ⟨h, if_neg h⟩

/-- The frame driver's turn is a closing of the tick in Running, and otherwise the end of the tick without a boundary. -/
theorem frameTurn_cases (s : State) :
    (s.runState = .running ∧ frameTurn s = closeTick s) ∨
    (s.runState ≠ .running ∧ frameTurn s = { s with tickLeft := none }) := by
  unfold frameTurn
  cases h : s.runState
  · exact .inr ⟨by simp, rfl⟩
  · exact .inl ⟨rfl, rfl⟩
  · exact .inr ⟨by simp, rfl⟩
  · exact .inr ⟨by simp, rfl⟩

/-- After an instruction of a Running block the tick is closed or left to the plan; else the quota ends. -/
theorem settle_cases (s : State) :
    (s.runState = .running ∧ (settle s = closeTick s ∨ settle s = s)) ∨
    (s.runState ≠ .running ∧ settle s = { s with tickLeft := none }) := by
  unfold settle
  cases h : s.runState with
  | running =>
    refine .inl ⟨rfl, ?_⟩
    simp only
    split
    · exact .inl rfl
    · exact .inl rfl
    · exact .inr rfl
    · exact .inr rfl
  | stopped => exact .inr ⟨by simp, rfl⟩
  | paused => exact .inr ⟨by simp, rfl⟩
  | faulted => exact .inr ⟨by simp, rfl⟩

end Sys2Proof.Machine
end

