-- ==== Sys2Proof/Laws/Meanings.lean ====
section
/-! SUPPORT. What each meaning that may raise can do, and what a cycle, a core's turn and a host's turn can do. -/

namespace Sys2Proof.Machine

/-! ### The meanings that may raise -/

/-- 00EE pops, or on an empty stack raises or does nothing. -/
theorem returnFrom_cases (s : State) :
    (∃ l a, s.stack = l ++ [a] ∧ returnFrom s = .ok ((s.setStack l).setPc a)) ∨
    (s.stack = [] ∧ s.cfg.retEmptyPolicy = .fault ∧ returnFrom s = .error .stackUnderflow) ∨
    (s.stack = [] ∧ s.cfg.retEmptyPolicy = .noop ∧ returnFrom s = .ok s) := by
  rcases List.eq_nil_or_concat' s.stack with h | ⟨l, a, h⟩
  · unfold returnFrom
    rw [pop_nil h]
    cases hp : s.cfg.retEmptyPolicy with
    | fault => exact .inr (.inl ⟨h, rfl, rfl⟩)
    | noop => exact .inr (.inr ⟨h, rfl, rfl⟩)
  · refine .inl ⟨l, a, h, ?_⟩
    unfold returnFrom
    rw [pop_append h]

/-- 2nnn pushes and jumps, or raises on a full stack. -/
theorem callTo_cases (nnn : Addr) (s : State) :
    (s.stackFull = true ∧ callTo nnn s = .error (.stackOverflow s.pc)) ∨
    (s.stackFull = false ∧ callTo nnn s = .ok ((s.setStack (s.stack ++ [s.pc])).setPc (zextAddr nnn))) := by
  unfold callTo
  rcases push_cases s s.pc with ⟨h, e⟩ | ⟨h, e⟩
  · exact .inl ⟨h, by rw [e]⟩
  · exact .inr ⟨h, by rw [e]⟩

/-- Dxyn draws and writes the collision, or raises. -/
theorem drawBody_cases (x y : Reg) (n : Fin 16) (s : State) :
    (spanFits (s.element 0) n.val = true ∧ ∃ d b, (d, b) = drawSprite s.disp (s.getV x).toNat (s.getV y).toNat (s.span n.val) ∧
      drawBody x y n s = .ok ((s.setDisp d).setFlag (flagByte b))) ∨
    (spanFits (s.element 0) n.val = false ∧ drawBody x y n s = .error (.outOfBounds (lowestOutside (s.element 0)))) := by
  unfold drawBody
  cases h : spanFits (s.element 0) n.val
  · exact .inr ⟨rfl, rfl⟩
  · exact .inl ⟨rfl, _, _, rfl, rfl⟩

theorem skipPressed_cases (x : Reg) (s : State) :
    (∃ k : Key, (s.getV x).toNat = k.val ∧ skipPressed x s = .ok (s.skipIf s.keys[k.val])) ∨
    (16 ≤ (s.getV x).toNat ∧ skipPressed x s = .error (.outOfBounds (s.getV x).toNat)) := by
  unfold skipPressed
  rcases keyIndex_cases (s.getV x) with ⟨h, e⟩ | ⟨h, e⟩
  · exact .inl ⟨⟨_, h⟩, rfl, by rw [e]⟩
  · exact .inr ⟨h, by rw [e]⟩

theorem skipReleased_cases (x : Reg) (s : State) :
    (∃ k : Key, (s.getV x).toNat = k.val ∧ skipReleased x s = .ok (s.skipIf (!s.keys[k.val]))) ∨
    (16 ≤ (s.getV x).toNat ∧ skipReleased x s = .error (.outOfBounds (s.getV x).toNat)) := by
  unfold skipReleased
  rcases keyIndex_cases (s.getV x) with ⟨h, e⟩ | ⟨h, e⟩
  · exact .inl ⟨⟨_, h⟩, rfl, by rw [e]⟩
  · exact .inr ⟨h, by rw [e]⟩

theorem bcdBody_cases (x : Reg) (s : State) :
    (spanFits (s.element 0) 3 = true ∧ bcdBody x s = .ok (s.writeBytes (s.element 0) (bcdDigits (s.getV x)))) ∨
    (spanFits (s.element 0) 3 = false ∧ bcdBody x s = .error (.outOfBounds 4096)) := by
  unfold bcdBody
  cases spanFits (s.element 0) 3
  · exact .inr ⟨rfl, rfl⟩
  · exact .inl ⟨rfl, rfl⟩

theorem storeBody_cases (x : Reg) (s : State) :
    (spanFits (s.element 0) (x.val + 1) = true ∧
      storeBody x s = .ok ((s.writeBytes (s.element 0) (s.regsUpTo x)).advanceI x)) ∨
    (spanFits (s.element 0) (x.val + 1) = false ∧ storeBody x s = .error (.outOfBounds 4096)) := by
  unfold storeBody
  cases spanFits (s.element 0) (x.val + 1)
  · exact .inr ⟨rfl, rfl⟩
  · exact .inl ⟨rfl, rfl⟩

theorem loadBody_cases (x : Reg) (s : State) :
    (spanFits (s.element 0) (x.val + 1) = true ∧ loadBody x s = .ok (State.advanceI { s with v := s.loadedRegs x } x)) ∨
    (spanFits (s.element 0) (x.val + 1) = false ∧ loadBody x s = .error (.outOfBounds 4096)) := by
  unfold loadBody
  cases spanFits (s.element 0) (x.val + 1)
  · exact .inr ⟨rfl, rfl⟩
  · exact .inl ⟨rfl, rfl⟩

/-- Fx0A takes some pressed key and spends the draw, or rewinds PC when none is pressed. -/
theorem pollKey_cases (choice : Nat) (x : Reg) (s : State) :
    (∃ k : Key, s.keys[k.val] = true ∧ pollKey choice x s = (s.setV x (BitVec.ofNat 8 k.val)).takeDraw) ∨
    ((∀ k : Key, s.keys[k.val] = false) ∧ pollKey choice x s = s.setPc (s.pc - 2)) := by
  unfold pollKey
  rcases pickKey_cases choice s.pressed with ⟨h, e⟩ | ⟨k, hk, e⟩
  · refine .inr ⟨fun k => ?_, by rw [e]⟩
    cases hk : s.keys[k.val]
    · rfl
    · exact absurd ((mem_pressed s k).mpr hk) (by simp [h])
  · exact .inl ⟨k, (mem_pressed s k).mp hk, by rw [e]⟩

/-! ### Turns -/

/-- A cycle dispatches a fetch error, executes the decoded instruction, or reports an unknown word. -/
theorem cycle_cases (s : State) :
    (∃ a, 4095 ≤ s.pc.toNat ∧ fetch s = .error (.outOfBounds a) ∧
      cycle s = .next (raiseFetch (.outOfBounds a) s.pc s)) ∨
    (∃ i, s.pc.toNat ≤ 4094 ∧ decode s.cfg.decode59 s.fetchWord = .instr i ∧ cycle s = exec i (s.setPc (s.pc + 2))) ∨
    (∃ c, s.pc.toNat ≤ 4094 ∧ decode s.cfg.decode59 s.fetchWord = .unknown c ∧
      cycle s = .next (raiseExecute .unknownOpcode s.fetchWord (s.setPc (s.pc + 2)))) := by
  rcases fetch_cases s with ⟨h, e⟩ | ⟨h, e⟩ | ⟨h, e⟩
  · cases hd : decode s.cfg.decode59 s.fetchWord with
    | instr i => exact .inr (.inl ⟨i, h, rfl, by simp [cycle, e, execute, hd]⟩)
    | unknown c => exact .inr (.inr ⟨c, h, rfl, by simp [cycle, e, execute, hd]⟩)
  · exact .inl ⟨4096, by omega, e, by simp [cycle, e]⟩
  · exact .inl ⟨s.pc.toNat, by omega, e, by simp [cycle, e]⟩

/-- A core's turn of a Running block is a cycle between the tick's bookkeeping; otherwise only the quota counter is cleared. -/
theorem coreTurn_cases (s : State) :
    (s.runState = .running ∧
      coreTurn s = andThen (cycle (takeFromQuota (closeTick s))) (fun t => .next (settle t))) ∨
    (s.runState ≠ .running ∧ coreTurn s = .next { s with tickLeft := none }) := by
  unfold coreTurn
  cases h : s.runState
  · exact .inr ⟨by simp, rfl⟩
  · exact .inl ⟨rfl, rfl⟩
  · exact .inr ⟨by simp, rfl⟩
  · exact .inr ⟨by simp, rfl⟩

/-- Load answers ProgramTooLarge, or copies the program (R262). -/
theorem loadProgram_cases (bytes : List Byte) (s : State) :
    (3584 < bytes.length ∧ loadProgram bytes s = s.reply (.programTooLarge bytes.length)) ∨
    (bytes.length ≤ 3584 ∧
      loadProgram bytes s = State.reply { s.writeBytes 0x200 bytes with loaded := true } .loadAccepted) := by
  unfold loadProgram
  by_cases h : bytes.length + programBase > memSize
  · exact .inl ⟨by simp only [programBase, memSize] at h; omega, if_pos h⟩
  · exact .inr ⟨by simp only [programBase, memSize] at h; omega, if_neg h⟩

/-- Every next state of a host's turn, by the interaction. -/
theorem hostTurn_cases {e : HostEvent} {s t : State} (h : hostTurn e s = .next t) :
    (∃ bytes, e = .load bytes ∧ s.runState = .stopped ∧ 3584 < bytes.length ∧
      t = s.reply (.programTooLarge bytes.length)) ∨
    (∃ bytes, e = .load bytes ∧ s.runState = .stopped ∧ bytes.length ≤ 3584 ∧
      t = State.reply { s.writeBytes 0x200 bytes with loaded := true } .loadAccepted) ∨
    (e = .run ∧ s.runState = .stopped ∧ s.loaded = true ∧ t = { s with runState := .running }) ∨
    (e = .pauseToggle ∧ s.runState = .running ∧ t = { s with runState := .paused }) ∨
    (e = .pauseToggle ∧ s.runState = .paused ∧ t = { s with runState := .running }) ∨
    (e = .stop ∧ t = resetBlock s) ∨
    (∃ k b, e = .setKey k b ∧ t = setKey k b s) ∨
    (e = .snapshot ∧ t = s.reply (.snapshot (snapshotOf s))) := by
  unfold hostTurn at h
  split at h
  · next bytes hr =>
    rcases loadProgram_cases bytes s with ⟨hl, e⟩ | ⟨hl, e⟩ <;> rw [e] at h
    · exact .inl ⟨_, rfl, hr, hl, (Host.Outcome.next.inj h).symm⟩
    · exact .inr (.inl ⟨_, rfl, hr, hl, (Host.Outcome.next.inj h).symm⟩)
  · next hr =>
    split at h
    · next hl => exact .inr (.inr (.inl ⟨rfl, hr, hl, (Host.Outcome.next.inj h).symm⟩))
    · cases h
  · next hr => exact .inr (.inr (.inr (.inl ⟨rfl, hr, (Host.Outcome.next.inj h).symm⟩)))
  · next hr => exact .inr (.inr (.inr (.inr (.inl ⟨rfl, hr, (Host.Outcome.next.inj h).symm⟩))))
  · exact .inr (.inr (.inr (.inr (.inr (.inl ⟨rfl, (Host.Outcome.next.inj h).symm⟩)))))
  · exact .inr (.inr (.inr (.inr (.inr (.inr (.inl ⟨_, _, rfl, (Host.Outcome.next.inj h).symm⟩))))))
  · exact .inr (.inr (.inr (.inr (.inr (.inr (.inr ⟨rfl, (Host.Outcome.next.inj h).symm⟩))))))
  · cases h
  · cases h
  · cases h

/-- A step is a core's turn, the frame driver's, or a host's turn, as the plan says. -/
theorem step_cases (s : State) :
    (s.turns = [] ∧ step s = coreTurn s) ∨
    (∃ rest, s.turns = .instr :: rest ∧ step s = coreTurn { s with turns := rest }) ∨
    (∃ rest, s.turns = .frame :: rest ∧ step s = .next (frameTurn { s with turns := rest })) ∨
    (∃ e rest, s.turns = .host e :: rest ∧ step s = hostTurn e { s with turns := rest }) := by
  unfold step nextTurn
  rcases h : s.turns with _ | ⟨t, rest⟩
  · exact .inl ⟨rfl, rfl⟩
  · cases t with
    | instr => exact .inr (.inl ⟨rest, rfl, rfl⟩)
    | frame => exact .inr (.inr (.inl ⟨rest, rfl, rfl⟩))
    | host e => exact .inr (.inr (.inr ⟨e, rest, rfl, rfl⟩))

/-- A run of one step more takes that step first, on any machine. -/
theorem run_next (M : Host.Core) (n : Nat) (s t : M.State) (h : M.step s = .next t) : M.run (n + 1) s = M.run n t := by
  simp [Host.Core.run, h]

/-- A run of one step more takes that step first. -/
theorem run_step {n : Nat} {s t : State} (h : step s = .next t) :
    Host.Core.run Sys2Proof.core (n + 1) s = Host.Core.run Sys2Proof.core n t :=
  run_next Sys2Proof.core n s t h

end Sys2Proof.Machine
end

