-- ==== Sys2Proof/Laws/PerInstr.lean ====
section
/-! SUPPORT. Per-instruction family TableRow: each instruction's word has the fixed bits of its own row of the opcode table (R75). -/

namespace Sys2Proof.Laws

theorem formNNN_and (a b : BitVec 4) (m n : Addr) : formNNN a m &&& formNNN b n = formNNN (a &&& b) (m &&& n) :=
  BitVec.and_append

theorem formXNN_and (a b : BitVec 4) (x y : Reg) (m n : Byte) :
    formXNN a x m &&& formXNN b y n = formXNN (a &&& b) (x &&& y) (m &&& n) := by
  have h : formXNN a x m &&& formXNN b y n =
      ((a ++ BitVec.ofFin (w := 4) x) &&& (b ++ BitVec.ofFin (w := 4) y)) ++ (m &&& n) := BitVec.and_append
  rw [h, BitVec.and_append]
  have e : ∀ x y : Reg, BitVec.ofFin (w := 4) x &&& BitVec.ofFin (w := 4) y = BitVec.ofFin (w := 4) (x &&& y) := by
    decide
  rw [e x y]
  rfl

/-- A word that is a row's pattern under the row's mask. -/
theorem admits_of_and {r : Row} {w : Word} (h : w &&& r.mask = r.pattern) : r.admits w = true := by
  simp [Row.admits, h]

theorem and_zero_addr (a : Addr) : a &&& 0 = 0 := BitVec.and_zero

/-- Format NNN under the mask 0xF000. -/
theorem formNNN_mask (op : BitVec 4) (nnn : Addr) : formNNN op nnn &&& 0xF000 = formNNN op 0 := by
  rw [show (0xF000 : Word) = formNNN 0xF 0 from rfl, formNNN_and, and_zero_addr]
  congr 1
  revert op; decide

/-- Format XNN under the mask 0xF000. -/
theorem formXNN_mask (op : BitVec 4) (x : Reg) (nn : Byte) : formXNN op x nn &&& 0xF000 = formXNN op 0 0 := by
  rw [show (0xF000 : Word) = formXNN 0xF 0 0 from rfl, formXNN_and, show nn &&& 0 = 0 from BitVec.and_zero,
    show x &&& 0 = 0 by revert x; decide, show op &&& 0xF = op by revert op; decide]

/-- Format XSUB under the mask 0xF0FF. -/
theorem formXNN_subMask (op : BitVec 4) (x : Reg) (nn : Byte) : formXNN op x nn &&& 0xF0FF = formXNN op 0 nn := by
  rw [show (0xF0FF : Word) = formXNN 0xF 0 0xFF from rfl, formXNN_and,
    show nn &&& 0xFF = nn from BitVec.and_allOnes,
    show x &&& 0 = 0 by revert x; decide, show op &&& 0xF = op by revert op; decide]

/-- Format XY: format XYN's word read as format XNN. -/
theorem formXYN_eq (op : BitVec 4) (x y : Reg) (n : Fin 16) :
    formXYN op x y n = formXNN op x (BitVec.ofFin (w := 4) y ++ BitVec.ofFin (w := 4) n) := by
  apply BitVec.eq_of_toNat_eq
  rw [formXYN_toNat, formXNN_toNat, append_toNat, show (BitVec.ofFin (w := 4) y).toNat = y.val from rfl,
    show (BitVec.ofFin (w := 4) n).toNat = n.val from rfl]
  omega

/-- Format XY under the mask 0xF00F. -/
theorem formXYN_mask (op : BitVec 4) (x y : Reg) (n : Fin 16) : formXYN op x y n &&& 0xF00F = formXYN op 0 0 n := by
  rw [formXYN_eq, formXYN_eq, show (0xF00F : Word) = formXNN 0xF 0 0x0F from rfl, formXNN_and,
    show x &&& 0 = 0 by revert x; decide, show op &&& 0xF = op by revert op; decide]
  congr 1
  revert y n; decide

/-- Format XYN under the mask 0xF000. -/
theorem formXYN_opMask (op : BitVec 4) (x y : Reg) (n : Fin 16) : formXYN op x y n &&& 0xF000 = formXYN op 0 0 0 := by
  rw [formXYN_eq, formXNN_mask, formXYN_eq]
  congr 1

namespace TableRow

/-- The instruction's row is a row of the table under its own mnemonic, and the instruction's word has the row's fixed bits. -/
def Statement (i : Instr) : Prop :=
  ∀ d, i.row d ∈ opcodeTable d ∧ (i.row d).mnemonic = i.mnemonic ∧ (i.row d).admits (encode i) = true

theorem cls : Statement .cls := fun d =>
  ⟨by cases d <;> exact List.elem_iff.mp rfl, rfl, by cases d <;> rfl⟩

theorem ret : Statement .ret := fun d =>
  ⟨by cases d <;> exact List.elem_iff.mp rfl, rfl, by cases d <;> rfl⟩

theorem jp (nnn : Addr) : Statement (.jp nnn) := fun d =>
  ⟨by cases d <;> exact List.elem_iff.mp rfl, rfl, admits_of_and (formNNN_mask _ _)⟩

theorem call (nnn : Addr) : Statement (.call nnn) := fun d =>
  ⟨by cases d <;> exact List.elem_iff.mp rfl, rfl, admits_of_and (formNNN_mask _ _)⟩

theorem seImm (x : Reg) (nn : Byte) : Statement (.seImm x nn) := fun d =>
  ⟨by cases d <;> exact List.elem_iff.mp rfl, rfl, admits_of_and (formXNN_mask _ _ _)⟩

theorem sneImm (x : Reg) (nn : Byte) : Statement (.sneImm x nn) := fun d =>
  ⟨by cases d <;> exact List.elem_iff.mp rfl, rfl, admits_of_and (formXNN_mask _ _ _)⟩

theorem seReg (x y : Reg) : Statement (.seReg x y) := fun d => by
  cases d
  · exact ⟨List.elem_iff.mp rfl, rfl, admits_of_and (formXYN_mask _ _ _ _)⟩
  · exact ⟨List.elem_iff.mp rfl, rfl, admits_of_and (formXYN_opMask _ _ _ _)⟩

theorem sneReg (x y : Reg) : Statement (.sneReg x y) := fun d => by
  cases d
  · exact ⟨List.elem_iff.mp rfl, rfl, admits_of_and (formXYN_mask _ _ _ _)⟩
  · exact ⟨List.elem_iff.mp rfl, rfl, admits_of_and (formXYN_opMask _ _ _ _)⟩

theorem ldImm (x : Reg) (nn : Byte) : Statement (.ldImm x nn) := fun d =>
  ⟨by cases d <;> exact List.elem_iff.mp rfl, rfl, admits_of_and (formXNN_mask _ _ _)⟩

theorem addImm (x : Reg) (nn : Byte) : Statement (.addImm x nn) := fun d =>
  ⟨by cases d <;> exact List.elem_iff.mp rfl, rfl, admits_of_and (formXNN_mask _ _ _)⟩

theorem ldReg (x y : Reg) : Statement (.ldReg x y) := fun d =>
  ⟨by cases d <;> exact List.elem_iff.mp rfl, rfl, admits_of_and (formXYN_mask _ _ _ _)⟩

theorem orReg (x y : Reg) : Statement (.orReg x y) := fun d =>
  ⟨by cases d <;> exact List.elem_iff.mp rfl, rfl, admits_of_and (formXYN_mask _ _ _ _)⟩

theorem andReg (x y : Reg) : Statement (.andReg x y) := fun d =>
  ⟨by cases d <;> exact List.elem_iff.mp rfl, rfl, admits_of_and (formXYN_mask _ _ _ _)⟩

theorem xorReg (x y : Reg) : Statement (.xorReg x y) := fun d =>
  ⟨by cases d <;> exact List.elem_iff.mp rfl, rfl, admits_of_and (formXYN_mask _ _ _ _)⟩

theorem addReg (x y : Reg) : Statement (.addReg x y) := fun d =>
  ⟨by cases d <;> exact List.elem_iff.mp rfl, rfl, admits_of_and (formXYN_mask _ _ _ _)⟩

theorem sub (x y : Reg) : Statement (.sub x y) := fun d =>
  ⟨by cases d <;> exact List.elem_iff.mp rfl, rfl, admits_of_and (formXYN_mask _ _ _ _)⟩

theorem shr (x y : Reg) : Statement (.shr x y) := fun d =>
  ⟨by cases d <;> exact List.elem_iff.mp rfl, rfl, admits_of_and (formXYN_mask _ _ _ _)⟩

theorem subn (x y : Reg) : Statement (.subn x y) := fun d =>
  ⟨by cases d <;> exact List.elem_iff.mp rfl, rfl, admits_of_and (formXYN_mask _ _ _ _)⟩

theorem shl (x y : Reg) : Statement (.shl x y) := fun d =>
  ⟨by cases d <;> exact List.elem_iff.mp rfl, rfl, admits_of_and (formXYN_mask _ _ _ _)⟩

theorem ldI (nnn : Addr) : Statement (.ldI nnn) := fun d =>
  ⟨by cases d <;> exact List.elem_iff.mp rfl, rfl, admits_of_and (formNNN_mask _ _)⟩

theorem jpV0 (nnn : Addr) : Statement (.jpV0 nnn) := fun d =>
  ⟨by cases d <;> exact List.elem_iff.mp rfl, rfl, admits_of_and (formNNN_mask _ _)⟩

theorem rnd (x : Reg) (nn : Byte) : Statement (.rnd x nn) := fun d =>
  ⟨by cases d <;> exact List.elem_iff.mp rfl, rfl, admits_of_and (formXNN_mask _ _ _)⟩

theorem drw (x y : Reg) (n : Fin 16) : Statement (.drw x y n) := fun d =>
  ⟨by cases d <;> exact List.elem_iff.mp rfl, rfl, admits_of_and (formXYN_opMask _ _ _ _)⟩

theorem skp (x : Reg) : Statement (.skp x) := fun d =>
  ⟨by cases d <;> exact List.elem_iff.mp rfl, rfl, admits_of_and (formXNN_subMask _ _ _)⟩

theorem sknp (x : Reg) : Statement (.sknp x) := fun d =>
  ⟨by cases d <;> exact List.elem_iff.mp rfl, rfl, admits_of_and (formXNN_subMask _ _ _)⟩

theorem ldVxDT (x : Reg) : Statement (.ldVxDT x) := fun d =>
  ⟨by cases d <;> exact List.elem_iff.mp rfl, rfl, admits_of_and (formXNN_subMask _ _ _)⟩

theorem ldVxK (x : Reg) : Statement (.ldVxK x) := fun d =>
  ⟨by cases d <;> exact List.elem_iff.mp rfl, rfl, admits_of_and (formXNN_subMask _ _ _)⟩

theorem ldDTVx (x : Reg) : Statement (.ldDTVx x) := fun d =>
  ⟨by cases d <;> exact List.elem_iff.mp rfl, rfl, admits_of_and (formXNN_subMask _ _ _)⟩

theorem ldSTVx (x : Reg) : Statement (.ldSTVx x) := fun d =>
  ⟨by cases d <;> exact List.elem_iff.mp rfl, rfl, admits_of_and (formXNN_subMask _ _ _)⟩

theorem addIVx (x : Reg) : Statement (.addIVx x) := fun d =>
  ⟨by cases d <;> exact List.elem_iff.mp rfl, rfl, admits_of_and (formXNN_subMask _ _ _)⟩

theorem ldFVx (x : Reg) : Statement (.ldFVx x) := fun d =>
  ⟨by cases d <;> exact List.elem_iff.mp rfl, rfl, admits_of_and (formXNN_subMask _ _ _)⟩

theorem ldBVx (x : Reg) : Statement (.ldBVx x) := fun d =>
  ⟨by cases d <;> exact List.elem_iff.mp rfl, rfl, admits_of_and (formXNN_subMask _ _ _)⟩

theorem ldMemIVx (x : Reg) : Statement (.ldMemIVx x) := fun d =>
  ⟨by cases d <;> exact List.elem_iff.mp rfl, rfl, admits_of_and (formXNN_subMask _ _ _)⟩

theorem ldVxMemI (x : Reg) : Statement (.ldVxMemI x) := fun d =>
  ⟨by cases d <;> exact List.elem_iff.mp rfl, rfl, admits_of_and (formXNN_subMask _ _ _)⟩

end TableRow

end Sys2Proof.Laws
end

