-- ==== Sys2Proof/Tests/Slice0.lean ====
section
/-! SUPPORT. Tests. Expected results are the vectors of spec/95_test_vectors.md (W, D, B, A, M, K, T, E) or words written out
from R72 and R75; and one witness for the hypotheses of every statement. -/

set_option maxRecDepth 8000

namespace Sys2Proof.Tests

open Sys2Proof.Machine

/-! ### Helpers -/

/-- The start state of the vectors: after reset, Running. -/
def running : State := { State.reset with runState := .running, loaded := true }

/-- That state with other parameters. -/
def runningWith (c : Config) : State := { State.construct c with runState := .running, loaded := true }

/-- What a step of the word placed at PC leaves, seen through f; none if there is no next state. -/
def after {α : Type} (s : State) (w : Nat) (f : State → α) : Option α :=
  match step (s.withFetchWord 16 w) with
  | .next t => some (f t)
  | .fault _ => none
  | .refused _ => none

/-- The next state of an outcome, seen through f. -/
def seen {α : Type} (o : Out) (f : State → α) : Option α :=
  match o with
  | .next t => some (f t)
  | .fault _ => none
  | .refused _ => none

/-- Several registers set. -/
def regs (s : State) : List (Reg × Byte) → State
  | [] => s
  | (x, b) :: l => regs (s.setV x b) l

/-- The set pixels of one display row. -/
def lit (d : Display) (r : Fin 32) : List Nat := ((List.finRange 64).filter (d.pixel r)).map Fin.val

def shiftQuirk : State := runningWith { resetConfig with shiftQuirk := true }
def loadStoreQuirk : State := runningWith { resetConfig with loadStoreQuirk := true }
def skipErrors : State := runningWith { resetConfig with errorPolicy := .skip }
def haltUnknown : State := runningWith { resetConfig with unknownOpcodePolicy := .halt }
def noopReturns : State := runningWith { resetConfig with retEmptyPolicy := .noop }
def lax : State := runningWith { resetConfig with decode59 := .lax }
def full : State := { running with stack := List.replicate 16 0x300 }

def hasKey (s : State) (k : Key) : State := setKey k true s

/-- What a halted run shows: run state, recorded cause and address, PC. -/
def failure (s : State) : RunState × Option (Cause × Option Nat) × Word :=
  (s.runState, s.fault.map (fun r => (r.cause, r.addr)), s.pc)

/-! ### Well-formedness: each check refuses an ill-formed term -/

theorem test_resetConfig_wellFormed : resetConfig.wellFormed := by decide
theorem test_fontFits_refuses : ¬ ({ resetConfig with fontBase := 0x1B1 } : Config).wellFormed := by decide
theorem test_fontFits_boundary : ({ resetConfig with fontBase := 0x1B0 } : Config).fontFits := by decide
theorem test_iptPositive_refuses : ¬ ({ resetConfig with ipt := 0 } : Config).wellFormed := by decide
theorem test_words_refused_strict :
    [0x0123, 0x0000, 0x5121, 0x912F, 0x8128, 0x812F, 0xE000, 0xF000, 0xFFFF, 0x00E1, 0x00FD].all
      (fun w => !Word.wellFormed .strict w) = true := by decide
theorem test_words_accepted :
    [0x00E0, 0x00EE, 0x1FFF, 0x5120, 0x812E, 0xD015, 0xE59E, 0xF565].all (fun w => Word.wellFormed .strict w) = true := by
  decide
theorem test_low_nibble_accepted_lax : Word.wellFormed .lax 0x5121 = true ∧ Word.wellFormed .lax 0x8128 = false := by decide

/-! ### Decoding: words written out from the patterns of R75 -/

theorem test_decode_display :
    decode .strict 0x00E0 = .instr .cls ∧ decode .strict 0xD9A5 = .instr (.drw 9 10 5) := by decide
theorem test_decode_control :
    decode .strict 0x00EE = .instr .ret ∧ decode .strict 0x1234 = .instr (.jp 0x234) ∧
    decode .strict 0x2ABC = .instr (.call 0xABC) ∧ decode .strict 0xB301 = .instr (.jpV0 0x301) := by decide
theorem test_decode_skips :
    decode .strict 0x3342 = .instr (.seImm 3 0x42) ∧ decode .strict 0x4F01 = .instr (.sneImm 15 0x01) ∧
    decode .strict 0x5120 = .instr (.seReg 1 2) ∧ decode .strict 0x9210 = .instr (.sneReg 2 1) := by decide
theorem test_decode_loads :
    decode .strict 0x6FAB = .instr (.ldImm 15 0xAB) ∧ decode .strict 0x700A = .instr (.addImm 0 0x0A) ∧
    decode .strict 0x8120 = .instr (.ldReg 1 2) ∧ decode .strict 0xC10F = .instr (.rnd 1 0x0F) := by decide
theorem test_decode_alu :
    decode .strict 0x8121 = .instr (.orReg 1 2) ∧ decode .strict 0x8122 = .instr (.andReg 1 2) ∧
    decode .strict 0x8123 = .instr (.xorReg 1 2) ∧ decode .strict 0x8124 = .instr (.addReg 1 2) ∧
    decode .strict 0x8125 = .instr (.sub 1 2) ∧ decode .strict 0x8126 = .instr (.shr 1 2) ∧
    decode .strict 0x8127 = .instr (.subn 1 2) ∧ decode .strict 0x812E = .instr (.shl 1 2) := by decide
theorem test_decode_index :
    decode .strict 0xA123 = .instr (.ldI 0x123) ∧ decode .strict 0xF21E = .instr (.addIVx 2) ∧
    decode .strict 0xF329 = .instr (.ldFVx 3) ∧ decode .strict 0xF533 = .instr (.ldBVx 5) ∧
    decode .strict 0xF155 = .instr (.ldMemIVx 1) ∧ decode .strict 0xFE65 = .instr (.ldVxMemI 14) := by decide
theorem test_decode_keys_timers :
    decode .strict 0xE59E = .instr (.skp 5) ∧ decode .strict 0xE5A1 = .instr (.sknp 5) ∧
    decode .strict 0xF107 = .instr (.ldVxDT 1) ∧ decode .strict 0xF20A = .instr (.ldVxK 2) ∧
    decode .strict 0xF015 = .instr (.ldDTVx 0) ∧ decode .strict 0xF018 = .instr (.ldSTVx 0) := by decide
theorem test_decode_unknown :
    decode .strict 0x0123 = .unknown .familyZero ∧ decode .strict 0x912F = .unknown .lowNibble ∧
    decode .strict 0x812D = .unknown .familyEight ∧ decode .strict 0xE59F = .unknown .familyE ∧
    decode .strict 0xF066 = .unknown .familyF := by decide
theorem test_decodeBytes :
    decodeBytes .strict [0x60, 0x05, 0x70, 0x0A] = .ok (.ldImm 0 5, [0x70, 0x0A]) ∧
    decodeBytes .strict [0x60] = .error .truncated ∧ decodeBytes .strict [] = .error .truncated ∧
    decodeBytes .strict [0xE0, 0x00] = .error (.unknown .familyE) := by
  refine ⟨rfl, rfl, rfl, rfl⟩
theorem test_decodeTableWord :
    decodeTableWord 16 0x812E = some (.shl 1 2) ∧ decodeTableWord 16 0x8128 = none ∧
    decodeTableWord 16 0xA2F0 = some (.ldI 0x2F0) := by decide

/-! ### Display -/

theorem test_cls : -- D12
    after { running with disp := running.disp.flip 5 10 } 0x00E0 (fun t => (lit t.disp 5, t.pc)) = some ([], 0x202) := by decide
theorem test_drw_column_wrap : -- D2
    after ((regs running [(0, 63), (1, 0)]).setI 0x300 |>.writeBytes 0x300 [0xC0]) 0xD011
      (fun t => (lit t.disp 0, lit t.disp 1, t.getV vF)) = some ([0, 63], [], 0) := by decide
theorem test_drw_collision : -- D7
    after ((regs { running with disp := running.disp.flip 0 8 } [(0, 8)]).setI 0x300 |>.writeBytes 0x300 [0x81]) 0xD011
      (fun t => (lit t.disp 0, t.getV vF)) = some ([15], 1) := by decide
theorem test_executeWord : -- W9
    seen (andThen (executeWord 0xA200 (running.writeBytes 0x200 [0xFF])) (executeWord 0xD001))
      (fun t => (t.i, lit t.disp 0, lit t.disp 1, t.getV vF, t.drawFlag, t.pc)) =
    some (0x200, [0, 1, 2, 3, 4, 5, 6, 7], [], 0, true, 0x200) := by decide

/-! ### Control transfer and skips -/

theorem test_ret : -- B5
    after { running with pc := 0x212, stack := [0x206] } 0x00EE (fun t => (t.pc, t.stack)) = some (0x206, []) := by decide
theorem test_ret_empty : -- B7
    after running 0x00EE failure = some (.faulted, some (.stackUnderflow, none), 0x202) := by decide
theorem test_jp : after { running with pc := 0x203 } 0x1301 State.pc = some 0x301 := by decide -- B3
theorem test_call : -- B4
    after { running with pc := 0x204 } 0x2210 (fun t => (t.pc, t.stack)) = some (0x210, [0x206]) := by decide
theorem test_call_full : -- B6
    after full 0x2300 failure = some (.faulted, some (.stackOverflow, some 0x202), 0x202) ∧
    after full 0x2300 State.stack = some (List.replicate 16 0x300) := by decide
theorem test_seImm : -- B9, B10
    after (running.setV 3 0x42) 0x3342 State.pc = some 0x204 ∧ after (running.setV 3 0x41) 0x3342 State.pc = some 0x202 := by
  decide
theorem test_sneImm : -- B11, B12
    after (running.setV 3 0x41) 0x4342 State.pc = some 0x204 ∧ after (running.setV 3 0x42) 0x4342 State.pc = some 0x202 := by
  decide
theorem test_seReg : -- B13, B14
    after (regs running [(1, 7), (2, 7)]) 0x5120 State.pc = some 0x204 ∧
    after (regs running [(1, 7), (2, 8)]) 0x5120 State.pc = some 0x202 := by decide
theorem test_sneReg : -- B16, B17
    after (regs running [(1, 7), (2, 8)]) 0x9120 State.pc = some 0x204 ∧ after running 0x9440 State.pc = some 0x202 := by decide
theorem test_jpV0 : after (running.setV 0 0xFF) 0xBFFF State.pc = some 0x10FE := by decide -- B19

/-! ### Loads, arithmetic, logic, shifts, random -/

theorem test_ldImm : after running 0x6FAB (fun t => t.getV vF) = some 0xAB := by decide -- A2
theorem test_addImm : -- A4
    after (regs running [(0, 0xFF), (15, 5)]) 0x7001 (fun t => (t.getV 0, t.getV vF)) = some (0, 5) := by decide
theorem test_ldReg : after (running.setV 2 0x33) 0x8120 (fun t => t.getV 1) = some 0x33 := by decide -- A5
theorem test_orReg : -- A6
    after (regs running [(1, 0x0F), (2, 0xF0), (15, 7)]) 0x8121 (fun t => (t.getV 1, t.getV vF)) = some (0xFF, 7) := by decide
theorem test_andReg : after (regs running [(1, 0x3C), (2, 0x0F)]) 0x8122 (fun t => t.getV 1) = some 0x0C := by decide -- A7
theorem test_xorReg : after (regs running [(1, 0xFF), (2, 0x0F)]) 0x8123 (fun t => t.getV 1) = some 0xF0 := by decide -- A8
theorem test_addReg : -- A10
    after (regs running [(0, 0xF0), (1, 0x20)]) 0x8014 (fun t => (t.getV 0, t.getV vF)) = some (0x10, 1) := by decide
theorem test_addReg_into_flag : -- A15
    after (regs running [(15, 0xFF), (1, 0x02)]) 0x8F14 (fun t => t.getV vF) = some 1 := by decide
theorem test_sub_equal : -- A17
    after (regs running [(1, 5), (2, 5)]) 0x8125 (fun t => (t.getV 1, t.getV vF)) = some (0, 1) := by decide
theorem test_sub_flag_operand : -- A19
    after (regs running [(15, 3), (1, 5)]) 0x81F5 (fun t => (t.getV 1, t.getV vF)) = some (2, 1) := by decide
theorem test_subn : -- A21
    after (regs running [(1, 2), (2, 1)]) 0x8127 (fun t => (t.getV 1, t.getV vF)) = some (0xFF, 0) := by decide
theorem test_shr : -- A22
    after (regs running [(1, 5)]) 0x8106 (fun t => (t.getV 1, t.getV vF)) = some (2, 1) := by decide
theorem test_shr_quirk : -- A26
    after (regs shiftQuirk [(2, 3)]) 0x8126 (fun t => (t.getV 1, t.getV 2, t.getV vF)) = some (1, 3, 1) := by decide
theorem test_shl : -- A28
    after (regs running [(1, 0x7F)]) 0x810E (fun t => (t.getV 1, t.getV vF)) = some (0xFE, 0) := by decide
theorem test_shl_into_flag : after (running.setV 15 0x80) 0x8FFE (fun t => t.getV vF) = some 1 := by decide -- A31
theorem test_rnd_mask : (rndWith 0xA7 0 0x0F running).getV 0 = 0x07 := by decide -- A32
theorem test_rnd_zero (s : State) : seen (exec (.rnd 0 0x00) s) (fun t => t.getV 0) = some 0x00 := by -- A33
  simp [exec, execRnd, rndWith, seen]

/-! ### Index register and memory transfers -/

theorem test_ldI : after running 0xAFFF State.i = some 0xFFF := by decide -- M2
theorem test_addIVx : after ((running.setI 0xFF0).setV 0 0xFF) 0xF01E State.i = some 0x0EF := by decide -- M5
theorem test_ldFVx : -- M6, M9
    after (running.setV 3 0x0A) 0xF329 State.i = some 0x082 ∧ after (running.setV 3 0xFF) 0xF329 State.i = some 0x54B := by decide
theorem test_ldBVx : -- M10
    after ((running.setI 0x300).setV 5 0xEA) 0xF533 (fun t => (t.span 3, t.i)) = some ([2, 3, 4], 0x300) := by decide
theorem test_ldBVx_beyond : -- M16
    after ((running.setI 0xFFE).setV 5 0x7B) 0xF533 failure = some (.faulted, some (.outOfBounds, some 0x1000), 0x202) ∧
    after ((running.setI 0xFFE).setV 5 0x7B) 0xF533 (fun t => t.span 2) = some [0, 0] := by decide
theorem test_ldMemIVx : -- M17, M18
    after (regs (running.setI 0x300) [(0, 1), (1, 2), (2, 9)]) 0xF155 (fun t => (t.span 3, t.i)) = some ([1, 2, 0], 0x300) ∧
    after (regs (loadStoreQuirk.setI 0x300) [(0, 1), (1, 2)]) 0xF155 State.i = some 0x302 := by decide
theorem test_ldMemIVx_beyond : -- M20, E11
    after (regs (skipErrors.setI 0xFFF) [(0, 0xAA), (1, 0xBB)]) 0xF155 (fun t => (t.runState, t.span 1, t.i, t.errorLog)) =
      some (.running, [0], 0xFFF, [⟨.outOfBounds, 0x200, some 0xF155, some 0x1000⟩]) := by decide
theorem test_ldVxMemI : -- M22, M26
    after ((running.setI 0x300).writeBytes 0x300 [2, 3, 4] |>.setV 3 0x77) 0xF265 (fun t => (t.regsUpTo 3, t.i)) =
      some ([2, 3, 4, 0x77], 0x300) ∧
    after (loadStoreQuirk.setI 0x300) 0xF265 State.i = some 0x303 := by decide
theorem test_ldVxMemI_beyond : -- M25
    after (running.setI 0xFF1) 0xFF65 failure = some (.faulted, some (.outOfBounds, some 0x1000), 0x202) := by decide

/-! ### Keys and timers -/

theorem test_skp : -- K1, K2
    after (hasKey (running.setV 5 10) 10) 0xE59E State.pc = some 0x204 ∧
    after (running.setV 5 10) 0xE59E State.pc = some 0x202 := by decide
theorem test_skp_beyond : -- K5
    after (running.setV 5 0x10) 0xE59E failure = some (.faulted, some (.outOfBounds, some 0x10), 0x202) := by decide
theorem test_sknp : -- K3, K6
    after (running.setV 5 10) 0xE5A1 State.pc = some 0x204 ∧
    after (hasKey (running.setV 5 15) 15) 0xE5A1 State.pc = some 0x202 := by decide
theorem test_ldVxDT : after (running.setDt 0x3C) 0xF107 (fun t => t.getV 1) = some 0x3C := by decide -- K7
theorem test_ldDTVx : after (running.setV 0 3) 0xF015 State.dt = some 3 := by decide -- K8
theorem test_ldSTVx : -- K9: the gate waits for the boundary
    after (running.setV 0 5) 0xF018 (fun t => (t.st, t.soundGate, (tickBoundary t).st, (tickBoundary t).soundGate)) =
      some (5, false, 4, true) := by decide
theorem test_ldVxK_waits : -- K12
    after { running with pc := 0x20A } 0xF20A (fun t => (t.pc, t.getV 2)) = some (0x20A, 0) := by decide
theorem test_ldVxK_choice : -- K13: either key, as the draw picks
    (pollKey 0 2 (hasKey (hasKey running 3) 9)).getV 2 = 3 ∧ (pollKey 1 2 (hasKey (hasKey running 3) 9)).getV 2 = 9 := by decide

/-! ### Fetch, errors, ticks, the host -/

theorem test_fetch_top : -- E1
    seen (step (running.writeBytes 0xFFE [0x12, 0x00] |>.setPc 0xFFE)) State.pc = some 0x200 := by decide
theorem test_fetch_beyond : -- E2
    seen (step (running.setPc 0xFFF)) failure = some (.faulted, some (.outOfBounds, some 0x1000), 0xFFF) := by decide
theorem test_fetch_odd : -- E4
    seen (step (running.writeBytes 0x201 [0x60, 0x07] |>.setPc 0x201)) (fun t => (t.getV 0, t.pc)) = some (7, 0x203) := by decide
theorem test_unknown_skip : -- E5
    after running 0x0123 (fun t => (t.pc, t.runState, t.errorLog)) =
      some (0x202, .running, [⟨.unknownOpcode, 0x200, some 0x0123, none⟩]) := by decide
theorem test_unknown_halt : -- E10
    after haltUnknown 0xE000 failure = some (.faulted, some (.unknownOpcode, none), 0x202) := by decide
theorem test_lax : after lax 0x5121 State.pc = some 0x204 := by decide -- E8
theorem test_tick_quota : -- T6: a halt in the quota, no countdown
    seen (tick ((running.setDt 4).writeBytes 0x200 [0x00, 0xEE])) (fun t => (t.dt, t.runState)) = some (4, .faulted) := by decide
theorem test_tick_paused : -- T4
    seen (tick { running with runState := .paused, dt := 5 }) State.dt = some 5 := by decide
theorem test_tick_paused_at_its_end : -- R232: paused when the driver tests run_state; the resumed block owes no countdown
    seen (Host.Core.run core 3 { running with
      runState := .paused, tickLeft := some 0, dt := 5, turns := [.frame, .host .pauseToggle, .frame] })
      (fun t => (t.dt, t.runState, t.tickLeft, t.hostOut)) = some (5, .running, none, []) := by decide
theorem test_load_then_run : -- W8's load: bytes at 0x200, then Running
    seen (Host.Core.run core 2 { State.reset with turns := [.host (.load [0x60, 0x05, 0x70]), .host .run] })
      (fun t => (t.readByte 0x201, t.readByte 0x203, t.runState, t.hostOut)) =
    some (0x05, 0, .running, [.loadAccepted]) := by decide
theorem test_stop : -- E16
    seen (step { running with runState := .faulted, pc := 0x10FE, turns := [.host .stop] })
      (fun t => (t.pc, t.runState, t.loaded)) = some (0x200, .stopped, false) := by decide

/-! ### Witnesses: for each statement with hypotheses, states and operands that meet them together, at the boundaries -/

/-- Running, with a word at PC. -/
def holding (w : Nat) : State := running.withFetchWord 16 w

/-- Running, with a plan of turns. -/
def planned (s : State) (ts : List Turn) : State := { s with turns := ts }

/-- The start state of the vectors has the invariant. -/
theorem running_inv : running.Inv where
  memWf := Memory.reset_wf resetConfig
  iInRange := by simp [running, State.reset, State.construct]
  stackDepth := by intro d _; simp [running, State.reset, State.construct]
  stackValues := by simp [running, State.reset, State.construct]
  pcInRange := by simp [running, State.reset, State.construct]
  faultIffFaulted := by simp [running, State.reset, State.construct]
  faultLogged := by simp [running, State.reset, State.construct]
  runsLoaded := by simp [running, State.reset, State.construct]
  neverTooLarge := by simp [running, State.reset, State.construct]

theorem witness_EncodeOfDecodeIsTheWord :
    decode .strict 0x6005 = .instr (.ldImm 0 5) ∧ decode .lax 0x6005 = .instr (.ldImm 0 5) ∧
    decode .lax 0x5121 = .instr (.seReg 1 2) := by decide
theorem witness_LaxIgnoresTheLowNibble : opField 0x512F = 5 ∧ opField 0x912F = 9 ∧ opField 0x4FFF ≠ 5 ∧ opField 0x4FFF ≠ 9 ∧
    opField 0xA000 ≠ 5 ∧ opField 0xA000 ≠ 9 := by decide
theorem witness_StepRunsTheDecodedInstruction :
    let s := (running.setPc 4094).withFetchWord 16 0x6005
    s.runState = .running ∧ s.turns = [] ∧ s.pc.toNat = 4094 ∧ decode s.cfg.decode59 s.fetchWord = .instr (.ldImm 0 5) := by decide
theorem witness_StepRunsTheDecodedInstruction_planned :
    let s := planned (holding 0x6005) [.instr, .host .stop]
    s.runState = .running ∧ (∃ rest, s.turns = .instr :: rest) ∧ s.pc.toNat ≤ 4094 ∧
    decode s.cfg.decode59 s.fetchWord = .instr (.ldImm 0 5) := ⟨rfl, ⟨[.host .stop], rfl⟩, by decide, by decide⟩
theorem witness_FetchReadsTwoBytesBigEndian :
    (running.setPc 4094).pc.toNat ≤ 4094 ∧ (running.setPc 4095).pc.toNat = 4095 ∧ 4095 < (running.setPc 4096).pc.toNat := by decide
theorem witness_FetchErrorHaltsTheBlock :
    let s := running.setPc 4095
    s.runState = .running ∧ s.turns = [] ∧ s.tickLeft ≠ some 0 ∧ 4095 ≤ s.pc.toNat := by decide
theorem witness_UnknownWordIsReported :
    decode running.cfg.decode59 0xE000 = .unknown .familyE ∧ running.cfg.unknownOpcodePolicy = .skip ∧
    decode haltUnknown.cfg.decode59 0xE000 = .unknown .familyE ∧ haltUnknown.cfg.unknownOpcodePolicy = .halt := by decide
theorem witness_NoStepOutsideRunning :
    State.reset.runState ≠ .running ∧ State.reset.turns = [] ∧
    (planned { running with runState := .paused, tickLeft := some 0 } [.frame]).turns = .frame :: [] ∧
    (planned { running with runState := .paused, tickLeft := some 0 } [.instr]).turns = .instr :: [] := by decide
theorem witness_StoredRegistersLoadBack :
    let s := running.setI 0xFF0
    s.i.toNat + (15 : Reg).val ≤ 4095 ∧ s.cfg.loadStoreQuirk = false ∧ (15 : Reg) ≤ 15 ∧
    s.i.toNat + (3 : Reg).val ≤ 4095 ∧ (3 : Reg) < 4 := by decide
theorem witness_StoredCodeIsFetched :
    let s := running.setI 0xFF0
    s.i.toNat + (15 : Reg).val ≤ 4095 ∧ (14 : Reg) < 15 ∧ (0xFFE : Word).toNat = s.i.toNat + (14 : Reg).val := by decide
theorem witness_JumpSetsPc : 4095 ≤ (0xFFF : Addr).toNat := by decide
/-- For the flag writers' clauses about Vx: a destination that is not VF (and vF itself is the other form). -/
theorem witness_AddReportsCarry : (0 : Reg) ≠ vF ∧ (14 : Reg) ≠ vF := by decide
theorem witness_SubtractionsReportNotBorrow : (0 : Reg) ≠ vF ∧ (14 : Reg) ≠ vF := by decide
theorem witness_ShiftsReportTheBitShiftedOut :
    (3 : Byte) = (if (regs shiftQuirk [(2, 3)]).cfg.shiftQuirk then (regs shiftQuirk [(2, 3)]).getV 2 else (regs shiftQuirk [(2, 3)]).getV 1) ∧
    (5 : Byte) = (if (regs running [(1, 5)]).cfg.shiftQuirk then (regs running [(1, 5)]).getV 2 else (regs running [(1, 5)]).getV 1) ∧
    (1 : Reg) ≠ vF := by decide
theorem witness_CallPushesOrOverflows :
    running.cfg.stackDepth ≠ some running.stack.length ∧ full.cfg.stackDepth = some full.stack.length := by decide
theorem witness_ReturnPopsTheLastEntry : ({ running with stack := [0x204, 0x206] } : State).stack = [0x204] ++ [0x206] := by decide
theorem witness_ReturnOnAnEmptyStack :
    running.stack = [] ∧ running.cfg.retEmptyPolicy = .fault ∧ noopReturns.stack = [] ∧ noopReturns.cfg.retEmptyPolicy = .noop := by
  decide
/-- The whole capacity of the stack is used: 16 nested calls. -/
theorem witness_BalancedCallsReturn :
    ∀ d, running.cfg.stackDepth = some d → running.stack.length + (List.replicate 16 (0x300 : Addr)).length ≤ d := by
  intro d h; cases h; decide
theorem witness_DrawFlipsCoveredPixels :
    let s := (running.setI 0xFFF).writeBytes 0xFFF [0x80]
    s.i.toNat + (1 : Fin 16).val ≤ 4096 ∧ SpriteCovers s 0 0 1 0 0 ∧ s.disp.pixel 0 0 = false ∧
    ({ s with disp := s.disp.flip 0 0 } : State).disp.pixel 0 0 = true := by
  refine ⟨by decide, ⟨0, by decide, 0, by decide, by decide⟩, by decide, by decide⟩
theorem witness_DrawFlipsCoveredPixels_uncovered (r : Fin 32) (c : Fin 64) : ¬ SpriteCovers running 0 0 0 r c := by
  intro h; obtain ⟨row, hr, _⟩ := h; exact absurd hr (Nat.not_lt_zero row)
theorem witness_DrawBeyondMemoryRaises : (3 : Fin 16).val ≠ 0 ∧ 4096 < (running.setI 0xFFE).i.toNat + (3 : Fin 16).val := by decide
theorem witness_DrawingTwiceRestores :
    (running.setI 0xFFE).i.toNat + (2 : Fin 16).val ≤ 4096 ∧ (0 : Reg) ≠ vF ∧ (14 : Reg) ≠ vF := by decide
theorem witness_FontAddressIsNotMasked : running.cfg.wellFormed := by decide
theorem witness_BcdStoresThreeDigits :
    (running.setI 0xFFD).i.toNat + 2 ≤ 4095 ∧ 4095 < (running.setI 0xFFE).i.toNat + 2 := by decide
theorem witness_StoreRegistersToMemory :
    (running.setI 0xFF0).i.toNat + (15 : Reg).val ≤ 4095 ∧ (15 : Reg) ≤ 15 ∧ 4095 < (running.setI 0xFF1).i.toNat + (15 : Reg).val := by
  decide
theorem witness_LoadRegistersFromMemory :
    (running.setI 0xFFF).i.toNat + (0 : Reg).val ≤ 4095 ∧ (0 : Reg) ≤ 0 ∧ 4095 < (running.setI 0xFFF).i.toNat + (1 : Reg).val := by
  decide
theorem witness_KeySkips : ((running.setV 5 15).getV 5).toNat = (15 : Key).val ∧ ((running.setV 5 0).getV 5).toNat = (0 : Key).val := by
  decide
theorem witness_KeyIndexAboveFifteenRaises : 15 < ((running.setV 5 16).getV 5).toNat := by decide
theorem witness_KeyWaitPolls :
    (∃ k : Key, (hasKey running 15).keys[k.val] = true) ∧ ∀ k : Key, running.keys[k.val] = false := by decide
theorem witness_RegistersAreWrittenAsListed :
    (∃ t, exec (.addReg 0 1) running = .next t) ∧ ¬ Writes (.addReg 0 1) 2 := ⟨⟨_, rfl⟩, by simp only [Writes]; decide⟩
theorem witness_RegistersAreReadAsListed :
    ¬ Reads running.cfg.shiftQuirk (.addReg 0 1) 2 ∧ (∃ t, exec (.addReg 0 1) running = .next t) ∧
    ∃ u, exec (.addReg 0 1) (running.setV 2 7) = .next u := ⟨by simp only [Reads]; decide, ⟨_, rfl⟩, ⟨_, rfl⟩⟩
theorem witness_OnlySixInstructionsWriteTheFlag :
    (∃ t, exec (.addReg 0 1) running = .next t ∧ t.errorLog = running.errorLog) ∧ WritesFlag (.addReg 0 1) ∧
    (∃ t, exec (.addImm 0 1) running = .next t) ∧ ¬ WritesFlag (.addImm 0 1) ∧ ¬ Writes (.addImm 0 1) vF :=
  ⟨⟨_, rfl, rfl⟩, trivial, ⟨_, rfl⟩, fun h => h, by simp only [Writes]; decide⟩
theorem witness_StateIsWrittenAsListed :
    seen (exec (.ldI 0x300) running) (fun t => decide (t.i ≠ running.i)) = some true ∧
    seen (exec (.call 0x300) running) (fun t => decide (t.stack ≠ running.stack)) = some true ∧
    seen (exec (.ldDTVx 0) (running.setV 0 1)) (fun t => decide (t.dt ≠ running.dt)) = some true ∧
    seen (exec (.ldSTVx 0) (running.setV 0 1)) (fun t => decide (t.st ≠ running.st)) = some true ∧
    seen (exec .cls { running with disp := running.disp.flip 5 10 }) (fun t => t.disp.pixel 5 10) = some false ∧
    (running.disp.flip 5 10).pixel 5 10 = true ∧
    seen (exec (.ldBVx 0) ((running.setI 0x300).setV 0 1)) (fun t => decide (t.readByte 0x302 ≠ running.readByte 0x302)) = some true := by
  decide
theorem witness_StepsKeepConfigurationKeysAndLog :
    (∃ t, step (holding 0x6005) = .next t) ∧ ∀ e rest, (holding 0x6005).turns ≠ .host e :: rest :=
  ⟨⟨_, rfl⟩, fun _ _ h => List.noConfusion rfl (heq_of_eq h)⟩
theorem witness_InvariantIsKeptByEveryStep :
    running.Inv ∧ ∃ t, step running = .next t := ⟨running_inv, _, rfl⟩
theorem witness_TickBoundaryEmits : ({ running with drawFlag := true } : State).drawFlag = true ∧ running.drawFlag = false := by decide
theorem witness_TickIsItsQuotaOfSteps :
    running.cfg.wellFormed ∧ running.runState = .running ∧ running.tickLeft = none ∧ running.turns = [] := by decide
theorem witness_RunStatesMoveAsTabulated_load :
    (planned State.reset [.host (.load [1])]).turns = .host (.load [1]) :: [] ∧ State.reset.runState = .stopped ∧
    (planned running [.host (.load [1])]).turns = .host (.load [1]) :: [] ∧ running.runState ≠ .stopped := by decide
theorem witness_RunStatesMoveAsTabulated_run :
    let ready : State := { State.reset with loaded := true, turns := [.host .run] }
    ready.turns = .host .run :: [] ∧ ready.runState = .stopped ∧ ready.loaded = true ∧
    ¬ (({ ready with loaded := false } : State).runState = .stopped ∧ ({ ready with loaded := false } : State).loaded = true) ∧
    ¬ ((planned running [.host .run]).runState = .stopped ∧ (planned running [.host .run]).loaded = true) := by decide
theorem witness_RunStatesMoveAsTabulated_pauseToggle :
    let s (r : RunState) : State := { running with runState := r, turns := [.host .pauseToggle] }
    (∀ r ∈ [RunState.running, .paused, .stopped, .faulted], (s r).turns = .host .pauseToggle :: [] ∧ (s r).runState = r) := by
  decide
theorem witness_RunStatesMoveAsTabulated_stop : (planned running [.host .stop]).turns = .host .stop :: [] := by decide
/-- A core's turn that keeps the run state, and one that moves it to Faulted. -/
theorem witness_RunStatesMoveAsTabulated_core :
    (∀ e rest, running.turns ≠ .host e :: rest) ∧ seen (step (holding 0x6005)) State.runState = some .running ∧
    seen (step (holding 0x00EE)) State.runState = some .faulted := ⟨fun _ _ h => List.noConfusion rfl (heq_of_eq h), by decide, by decide⟩
theorem witness_LoadCopiesTheProgram :
    (planned State.reset [.host (.load (List.replicate 3584 1))]).turns = .host (.load (List.replicate 3584 1)) :: [] ∧
    State.reset.runState = .stopped ∧ (List.replicate 3584 (1 : Byte)).length ≤ 3584 ∧
    3584 < (List.replicate 3585 (1 : Byte)).length :=
  ⟨rfl, rfl, by rw [List.length_replicate], by rw [List.length_replicate]; decide⟩
theorem witness_StopIsAFullReset :
    let s := planned { running with runState := .faulted } [.host .stop]
    s.turns = .host .stop :: [] ∧ s.cfg.fontBase.toNat = 0x50 := by decide
theorem witness_KeyWritesAreSeenByTheNextPoll :
    (planned (running.setV 0 4) [.host (.setKey 4 false)]).turns = .host (.setKey 4 false) :: [] ∧
    ((planned (running.setV 0 4) [.host (.setKey 4 false)]).getV 0).toNat = (4 : Key).val := by decide
theorem witness_SnapshotReadsAndChangesNothing : (planned running [.host .snapshot]).turns = .host .snapshot :: [] := by decide
theorem witness_EndsOfARunLast :
    (holding 0x1200).turns = [] ∧ (holding 0x1200).AtEnd 0x200 ∧ (holding 0xF20A).turns = [] ∧ (holding 0xF20A).WaitsForKey 2 := by
  decide

end Sys2Proof.Tests
end

/-! How an instruction ends: it completes and leaves the block alone, or it takes one error from the state before it
(R10, R221, R223). -/

namespace Sys2Proof.Machine

/-! ### What the updates of a completing instruction leave alone -/

section SameBlock

variable (s t : State)

@[simp] theorem sameBlock_refl : SameBlock s s := ⟨rfl, rfl, rfl, rfl, rfl, rfl, rfl, rfl, rfl, rfl⟩

@[simp] theorem sameBlock_setV (x : Reg) (b : Byte) : SameBlock s (t.setV x b) ↔ SameBlock s t := Iff.rfl

@[simp] theorem sameBlock_setFlag (b : Byte) : SameBlock s (t.setFlag b) ↔ SameBlock s t := Iff.rfl

@[simp] theorem sameBlock_setResultFlag (x : Reg) (b f : Byte) :
    SameBlock s (t.setResultFlag x b f) ↔ SameBlock s t := Iff.rfl

@[simp] theorem sameBlock_setI (a : Word) : SameBlock s (t.setI a) ↔ SameBlock s t := Iff.rfl

@[simp] theorem sameBlock_setPc (a : Word) : SameBlock s (t.setPc a) ↔ SameBlock s t := Iff.rfl

@[simp] theorem sameBlock_setDt (b : Byte) : SameBlock s (t.setDt b) ↔ SameBlock s t := Iff.rfl

@[simp] theorem sameBlock_setSt (b : Byte) : SameBlock s (t.setSt b) ↔ SameBlock s t := Iff.rfl

@[simp] theorem sameBlock_setStack (l : List Word) : SameBlock s (t.setStack l) ↔ SameBlock s t := Iff.rfl

@[simp] theorem sameBlock_setDisp (d : Display) : SameBlock s (t.setDisp d) ↔ SameBlock s t := Iff.rfl

@[simp] theorem sameBlock_takeDraw : SameBlock s t.takeDraw ↔ SameBlock s t := Iff.rfl

@[simp] theorem sameBlock_writeBytes (a : Nat) (bs : List Byte) :
    SameBlock s (t.writeBytes a bs) ↔ SameBlock s t := Iff.rfl

@[simp] theorem sameBlock_withRegs (v : Vector Byte 16) : SameBlock s { t with v := v } ↔ SameBlock s t := Iff.rfl

@[simp] theorem sameBlock_skipIf (c : Bool) : SameBlock s (t.skipIf c) ↔ SameBlock s t := by cases c <;> rfl

@[simp] theorem sameBlock_advanceI (x : Reg) : SameBlock s (t.advanceI x) ↔ SameBlock s t := by simp [SameBlock]

@[simp] theorem sameBlock_rndWith (r : Byte) (x : Reg) (nn : Byte) :
    SameBlock s (rndWith r x nn t) ↔ SameBlock s t := Iff.rfl

@[simp] theorem sameBlock_pollKey (choice : Nat) (x : Reg) : SameBlock s (pollKey choice x t) ↔ SameBlock s t := by
  rcases pollKey_cases choice x t with ⟨k, -, h⟩ | ⟨-, h⟩
  · simp [h]
  · simp [h]

end SameBlock

/-! ### An error of an instruction's own -/

/-- An instruction's own error is one of three causes; UnknownOpcode is raised before any instruction runs (R76). -/
theorem own_cause_mem {e : RunError} (he : e ≠ .unknownOpcode) :
    e.cause ∈ [Cause.outOfBounds, Cause.stackUnderflow, Cause.stackOverflow] := by
  cases e with
  | unknownOpcode => exact absurd rfl he
  | outOfBounds | stackUnderflow | stackOverflow => simp [RunError.cause]

/-- An instruction's own error falls under ERROR_POLICY, not under the policy of unknown words (R223). -/
theorem policyOf_own {e : RunError} (he : e ≠ .unknownOpcode) (c : Config) : policyOf c e = c.errorPolicy := by
  cases e with
  | unknownOpcode => exact absurd rfl he
  | outOfBounds | stackUnderflow | stackOverflow => rfl

/-! ### The end of an instruction -/

/-- The instruction with word w, run from s, completes and leaves the block alone, or takes one error of its own. -/
def EndsAllOrNothing (w : Word) (s : State) (o : Out) : Prop :=
  ∃ t, o = .next t ∧ (SameBlock s t ∨ ∃ e, e ≠ .unknownOpcode ∧ t = raiseExecute e w s)

namespace EndsAllOrNothing

variable {w : Word} {s t : State} {r : Except RunError State} {e : RunError}

theorem next (h : SameBlock s t) : EndsAllOrNothing w s (.next t) := ⟨t, rfl, .inl h⟩

theorem concludeOk (hr : r = .ok t) (h : SameBlock s t) : EndsAllOrNothing w s (conclude w s r) := hr ▸ next h

theorem concludeError (hr : r = .error e) (he : e ≠ .unknownOpcode) : EndsAllOrNothing w s (conclude w s r) :=
  hr ▸ ⟨_, rfl, .inr ⟨e, he, rfl⟩⟩

end EndsAllOrNothing

open EndsAllOrNothing

/-- Eight instructions may raise, each through its own check; the others always complete. -/
theorem exec_endsAllOrNothing (i : Instr) (s : State) : EndsAllOrNothing (encode i) s (exec i s) := by
  cases i with
  | ret =>
    rcases returnFrom_cases s with ⟨l, a, -, h⟩ | ⟨-, -, h⟩ | ⟨-, -, h⟩
    · exact concludeOk h (by simp)
    · exact concludeError h (by simp)
    · exact concludeOk h (by simp)
  | call nnn =>
    rcases callTo_cases nnn s with ⟨-, h⟩ | ⟨-, h⟩
    · exact concludeError h (by simp)
    · exact concludeOk h (by simp)
  | drw x y n =>
    rcases drawBody_cases x y n s with ⟨-, d, b, -, h⟩ | ⟨-, h⟩
    · exact concludeOk h (by simp)
    · exact concludeError h (by simp)
  | skp x =>
    rcases skipPressed_cases x s with ⟨k, -, h⟩ | ⟨-, h⟩
    · exact concludeOk h (by simp)
    · exact concludeError h (by simp)
  | sknp x =>
    rcases skipReleased_cases x s with ⟨k, -, h⟩ | ⟨-, h⟩
    · exact concludeOk h (by simp)
    · exact concludeError h (by simp)
  | ldBVx x =>
    rcases bcdBody_cases x s with ⟨-, h⟩ | ⟨-, h⟩
    · exact concludeOk h (by simp)
    · exact concludeError h (by simp)
  | ldMemIVx x =>
    rcases storeBody_cases x s with ⟨-, h⟩ | ⟨-, h⟩
    · exact concludeOk h (by simp)
    · exact concludeError h (by simp)
  | ldVxMemI x =>
    rcases loadBody_cases x s with ⟨-, h⟩ | ⟨-, h⟩
    · exact concludeOk h (by simp)
    · exact concludeError h (by simp)
  | cls | jp | jpV0 | seImm | sneImm | seReg | sneReg | ldImm | addImm | ldReg | orReg | andReg | xorReg | addReg | sub
  | subn | shr | shl | rnd | ldI | addIVx | ldFVx | ldVxDT | ldDTVx | ldSTVx | ldVxK => exact next (by simp)

/-- Settles O13: a completing instruction leaves the block alone, and a raised error is dispatched from the state before
it under ERROR_POLICY. -/
theorem instructionsRaiseAllOrNothing : Obligations.InstructionsRaiseAllOrNothing := by
  intro i s
  obtain ⟨t, ht, hs | ⟨e, he, rfl⟩⟩ := exec_endsAllOrNothing i s
  · obtain ⟨-, -, -, hrun, hfault, hlog, -⟩ := hs
    exact ⟨t, ht, .inl ⟨hlog, hfault, hrun⟩⟩
  · have taken := dispatch_taken (policyOf s.cfg e) e (s.pc - 2) (some (encode i)) s
    rw [policyOf_own he] at taken
    refine ⟨_, ht, .inr ⟨e.cause, e.addr, own_cause_mem he, ?_⟩⟩
    rw [raiseExecute, policyOf_own he]
    exact taken

end Sys2Proof.Machine

/-! What each instruction leaves in the state it ends in, the errors it may take included; which registers it reads; and what
every step keeps (R20 to R38, R223, R234). -/

namespace Sys2Proof.Machine

/-! ### What taking an error leaves alone -/

section RaiseExecute

variable (e : RunError) (w : Word) (s : State)

/-- An error of Execute touches error_log, `fault` and the run state only (R10). -/
theorem raiseExecute_eq : ∃ log f r, raiseExecute e w s = { s with errorLog := log, fault := f, runState := r } := by
  rcases dispatch_eq (policyOf s.cfg e) e (s.pc - 2) (some w) s with ⟨-, h⟩ | ⟨-, h⟩
  · exact ⟨_, _, _, h⟩
  · exact ⟨_, _, _, h⟩

@[simp] theorem raiseExecute_errorLog :
    (raiseExecute e w s).errorLog = s.errorLog ++ [report e (s.pc - 2) (some w)] := dispatch_errorLog ..

@[simp] theorem raiseExecute_getV (r : Reg) : (raiseExecute e w s).getV r = s.getV r := by
  obtain ⟨_, _, _, h⟩ := raiseExecute_eq e w s; rw [h]; rfl

@[simp] theorem raiseExecute_cfg : (raiseExecute e w s).cfg = s.cfg := by
  obtain ⟨_, _, _, h⟩ := raiseExecute_eq e w s; rw [h]

@[simp] theorem raiseExecute_mem : (raiseExecute e w s).mem = s.mem := by
  obtain ⟨_, _, _, h⟩ := raiseExecute_eq e w s; rw [h]

@[simp] theorem raiseExecute_i : (raiseExecute e w s).i = s.i := by
  obtain ⟨_, _, _, h⟩ := raiseExecute_eq e w s; rw [h]

@[simp] theorem raiseExecute_pc : (raiseExecute e w s).pc = s.pc := by
  obtain ⟨_, _, _, h⟩ := raiseExecute_eq e w s; rw [h]

@[simp] theorem raiseExecute_stack : (raiseExecute e w s).stack = s.stack := by
  obtain ⟨_, _, _, h⟩ := raiseExecute_eq e w s; rw [h]

@[simp] theorem raiseExecute_dt : (raiseExecute e w s).dt = s.dt := by
  obtain ⟨_, _, _, h⟩ := raiseExecute_eq e w s; rw [h]

@[simp] theorem raiseExecute_st : (raiseExecute e w s).st = s.st := by
  obtain ⟨_, _, _, h⟩ := raiseExecute_eq e w s; rw [h]

@[simp] theorem raiseExecute_disp : (raiseExecute e w s).disp = s.disp := by
  obtain ⟨_, _, _, h⟩ := raiseExecute_eq e w s; rw [h]

@[simp] theorem raiseExecute_keys : (raiseExecute e w s).keys = s.keys := by
  obtain ⟨_, _, _, h⟩ := raiseExecute_eq e w s; rw [h]

@[simp] theorem raiseExecute_soundGate : (raiseExecute e w s).soundGate = s.soundGate := by
  obtain ⟨_, _, _, h⟩ := raiseExecute_eq e w s; rw [h]

end RaiseExecute

/-! ### The states an instruction can end in -/

/-- Every state an instruction run from s can end in: its result, under the guard that lets it complete, or one dispatched
error of its own. -/
inductive ExecEnds (s : State) : Instr → State → Prop
  | raised {i} (e : RunError) (own : e ≠ .unknownOpcode) : ExecEnds s i (raiseExecute e (encode i) s)
  | cls : ExecEnds s .cls (s.setDisp Display.blank)
  | ret (l : List Word) (a : Word) (entries : s.stack = l ++ [a]) : ExecEnds s .ret ((s.setStack l).setPc a)
  | retNoop (empty : s.stack = []) (policy : s.cfg.retEmptyPolicy = .noop) : ExecEnds s .ret s
  | jp (nnn : Addr) : ExecEnds s (.jp nnn) (s.setPc (zextAddr nnn))
  | call (nnn : Addr) (room : s.stackFull = false) :
      ExecEnds s (.call nnn) ((s.setStack (s.stack ++ [s.pc])).setPc (zextAddr nnn))
  | seImm (x : Reg) (nn : Byte) : ExecEnds s (.seImm x nn) (s.skipIf (s.getV x == nn))
  | sneImm (x : Reg) (nn : Byte) : ExecEnds s (.sneImm x nn) (s.skipIf (s.getV x != nn))
  | seReg (x y : Reg) : ExecEnds s (.seReg x y) (s.skipIf (s.getV x == s.getV y))
  | sneReg (x y : Reg) : ExecEnds s (.sneReg x y) (s.skipIf (s.getV x != s.getV y))
  | ldImm (x : Reg) (nn : Byte) : ExecEnds s (.ldImm x nn) (s.setV x nn)
  | addImm (x : Reg) (nn : Byte) : ExecEnds s (.addImm x nn) (s.setV x (s.getV x + nn))
  | ldReg (x y : Reg) : ExecEnds s (.ldReg x y) (s.setV x (s.getV y))
  | orReg (x y : Reg) : ExecEnds s (.orReg x y) (s.setV x (s.getV x ||| s.getV y))
  | andReg (x y : Reg) : ExecEnds s (.andReg x y) (s.setV x (s.getV x &&& s.getV y))
  | xorReg (x y : Reg) : ExecEnds s (.xorReg x y) (s.setV x (s.getV x ^^^ s.getV y))
  | addReg (x y : Reg) :
      ExecEnds s (.addReg x y) (s.setResultFlag x (s.getV x + s.getV y) (carryFlag (s.getV x) (s.getV y)))
  | sub (x y : Reg) :
      ExecEnds s (.sub x y) (s.setResultFlag x (s.getV x - s.getV y) (notBorrowFlag (s.getV x) (s.getV y)))
  | subn (x y : Reg) :
      ExecEnds s (.subn x y) (s.setResultFlag x (s.getV y - s.getV x) (notBorrowFlag (s.getV y) (s.getV x)))
  | shr (x y : Reg) :
      ExecEnds s (.shr x y) (s.setResultFlag x (s.shiftSource x y >>> 1) (shiftRightFlag (s.shiftSource x y)))
  | shl (x y : Reg) :
      ExecEnds s (.shl x y) (s.setResultFlag x (s.shiftSource x y <<< 1) (shiftLeftFlag (s.shiftSource x y)))
  | ldI (nnn : Addr) : ExecEnds s (.ldI nnn) (s.setI (zextAddr nnn))
  | jpV0 (nnn : Addr) : ExecEnds s (.jpV0 nnn) (s.setPc (zextAddr nnn + zextByte (s.getV 0)))
  | rnd (x : Reg) (nn : Byte) : ExecEnds s (.rnd x nn) (s.setV x (Config.rand8 s.draws &&& nn)).takeDraw
  | drw (x y : Reg) (n : Fin 16) (d : Display) (b : Bool) (fits : spanFits (s.element 0) n.val = true)
      (drawn : (d, b) = drawSprite s.disp (s.getV x).toNat (s.getV y).toNat (s.span n.val)) :
      ExecEnds s (.drw x y n) ((s.setDisp d).setFlag (flagByte b))
  | skp (x : Reg) (k : Key) (named : (s.getV x).toNat = k.val) : ExecEnds s (.skp x) (s.skipIf s.keys[k.val])
  | sknp (x : Reg) (k : Key) (named : (s.getV x).toNat = k.val) : ExecEnds s (.sknp x) (s.skipIf (!s.keys[k.val]))
  | ldVxDT (x : Reg) : ExecEnds s (.ldVxDT x) (s.setV x s.dt)
  | ldVxK (x : Reg) (k : Key) (down : s.keys[k.val] = true) :
      ExecEnds s (.ldVxK x) (s.setV x (BitVec.ofNat 8 k.val)).takeDraw
  | ldVxKWait (x : Reg) (up : ∀ k : Key, s.keys[k.val] = false) : ExecEnds s (.ldVxK x) (s.setPc (s.pc - 2))
  | ldDTVx (x : Reg) : ExecEnds s (.ldDTVx x) (s.setDt (s.getV x))
  | ldSTVx (x : Reg) : ExecEnds s (.ldSTVx x) (s.setSt (s.getV x))
  | addIVx (x : Reg) : ExecEnds s (.addIVx x) (s.setI (BitVec.ofNat 16 ((s.i.toNat + (s.getV x).toNat) % 4096)))
  | ldFVx (x : Reg) : ExecEnds s (.ldFVx x) (s.setI (glyphAddr s.cfg (s.getV x)))
  | ldBVx (x : Reg) (fits : spanFits (s.element 0) 3 = true) :
      ExecEnds s (.ldBVx x) (s.writeBytes (s.element 0) (bcdDigits (s.getV x)))
  | ldMemIVx (x : Reg) (fits : spanFits (s.element 0) (x.val + 1) = true) :
      ExecEnds s (.ldMemIVx x) ((s.writeBytes (s.element 0) (s.regsUpTo x)).advanceI x)
  | ldVxMemI (x : Reg) (fits : spanFits (s.element 0) (x.val + 1) = true) :
      ExecEnds s (.ldVxMemI x) (State.advanceI { s with v := s.loadedRegs x } x)

namespace ExecEnds

variable {i : Instr} {s t u : State} {r : Except RunError State} {e : RunError}

theorem of_ok (hr : r = .ok u) (hu : ExecEnds s i u) (h : conclude (encode i) s r = .next t) : ExecEnds s i t := by
  subst hr; cases h; exact hu

theorem of_error (hr : r = .error e) (own : e ≠ .unknownOpcode) (h : conclude (encode i) s r = .next t) :
    ExecEnds s i t := by
  subst hr; cases h; exact .raised e own

end ExecEnds

open ExecEnds in
/-- What exec can do, said once: the eight instructions that may raise go through their own checks, the others complete. -/
theorem exec_ends {i : Instr} {s t : State} (h : exec i s = .next t) : ExecEnds s i t := by
  cases i with
  | ret =>
    rcases returnFrom_cases s with ⟨l, a, hl, hr⟩ | ⟨-, -, hr⟩ | ⟨hs, hp, hr⟩
    · exact of_ok hr (.ret l a hl) h
    · exact of_error hr (by simp) h
    · exact of_ok hr (.retNoop hs hp) h
  | call nnn =>
    rcases callTo_cases nnn s with ⟨-, hr⟩ | ⟨hf, hr⟩
    · exact of_error hr (by simp) h
    · exact of_ok hr (.call nnn hf) h
  | drw x y n =>
    rcases drawBody_cases x y n s with ⟨hf, d, b, hd, hr⟩ | ⟨-, hr⟩
    · exact of_ok hr (.drw x y n d b hf hd) h
    · exact of_error hr (by simp) h
  | skp x =>
    rcases skipPressed_cases x s with ⟨k, hk, hr⟩ | ⟨-, hr⟩
    · exact of_ok hr (.skp x k hk) h
    · exact of_error hr (by simp) h
  | sknp x =>
    rcases skipReleased_cases x s with ⟨k, hk, hr⟩ | ⟨-, hr⟩
    · exact of_ok hr (.sknp x k hk) h
    · exact of_error hr (by simp) h
  | ldBVx x =>
    rcases bcdBody_cases x s with ⟨hf, hr⟩ | ⟨-, hr⟩
    · exact of_ok hr (.ldBVx x hf) h
    · exact of_error hr (by simp) h
  | ldMemIVx x =>
    rcases storeBody_cases x s with ⟨hf, hr⟩ | ⟨-, hr⟩
    · exact of_ok hr (.ldMemIVx x hf) h
    · exact of_error hr (by simp) h
  | ldVxMemI x =>
    rcases loadBody_cases x s with ⟨hf, hr⟩ | ⟨-, hr⟩
    · exact of_ok hr (.ldVxMemI x hf) h
    · exact of_error hr (by simp) h
  | ldVxK x =>
    cases h
    rcases pollKey_cases (Config.keyChoice s.draws) x s with ⟨k, hk, hp⟩ | ⟨hk, hp⟩
    · exact hp ▸ .ldVxK x k hk
    · exact hp ▸ .ldVxKWait x hk
  | _ => cases h; constructor

/-! ### What each component holds at the end of an instruction -/

theorem getV_loadedRegs_above {x r : Reg} (s : State) (h : ¬ r ≤ x) :
    State.getV { s with v := s.loadedRegs x } r = s.getV r := by
  rw [State.getV, loadedRegs_getElem, if_neg h]

theorem flagByte_zero_or_one (b : Bool) : flagByte b = 0 ∨ flagByte b = 1 := by
  cases b
  · exact .inl rfl
  · exact .inr rfl

theorem zextAddr_toNat_le (nnn : Addr) : (zextAddr nnn).toNat ≤ 4095 := by
  have := nnn.isLt
  simp only [zextAddr, BitVec.toNat_setWidth]; omega

/-- A 16-bit value reduced mod 4096 is an address (R25). -/
theorem ofNat_mod_toNat_le (n : Nat) : (BitVec.ofNat 16 (n % 4096)).toNat ≤ 4095 := by
  simp only [BitVec.toNat_ofNat]; omega

theorem pc_skipIf_le (s : State) (c : Bool) : (s.skipIf c).pc.toNat ≤ s.pc.toNat + 2 := by
  cases c
  · exact Nat.le_add_right ..
  · simp [State.skipIf, BitVec.toNat_add]; omega

theorem jpV0_target_le (nnn : Addr) (b : Byte) : (zextAddr nnn + zextByte b).toNat ≤ 0x10FE := by
  have := zextAddr_toNat_le nnn
  have := b.isLt
  simp only [zextByte, BitVec.toNat_add, BitVec.toNat_setWidth]; omega

namespace ExecEnds

variable {i : Instr} {s t : State}

/-- A register outside the writes column of R24 keeps what it held. -/
theorem getV_eq {r : Reg} (h : ExecEnds s i t) (hr : ¬ Writes i r) : t.getV r = s.getV r := by
  cases h with
  | ldImm | addImm | ldReg | orReg | andReg | xorReg | ldVxDT | rnd | ldVxK => exact State.getV_setV_ne s _ hr
  | addReg | sub | subn | shr | shl =>
    obtain ⟨hx, hf⟩ := not_or.mp hr
    exact State.getV_setResultFlag_ne s _ _ hx hf
  | drw x y n d => exact State.getV_setFlag_ne (s.setDisp d) _ hr
  | ldVxMemI x => exact (State.getV_advanceI _ x r).trans (getV_loadedRegs_above s hr)
  | _ => simp

/-- A flag writer that completes leaves its flag in VF; an error is told apart by its report. -/
theorem getV_flag (h : ExecEnds s i t) (hw : WritesFlag i) (hlog : t.errorLog = s.errorLog) : ∃ b, t.getV vF = flagByte b := by
  cases h with
  | raised => simp at hlog
  | addReg | sub | subn | shr | shl => exact ⟨_, State.getV_setResultFlag_vF ..⟩
  | drw => exact ⟨_, State.getV_setFlag_vF ..⟩
  | _ => exact hw.elim

/-- I changes after its listed instructions only, and what they put there is an address (R25). -/
theorem i_cases (h : ExecEnds s i t) : t.i = s.i ∨ t.i.toNat ≤ 4095 ∧
    ((∃ nnn, i = .ldI nnn) ∨ (∃ x, i = .addIVx x) ∨ (∃ x, i = .ldFVx x) ∨
      (s.cfg.loadStoreQuirk = true ∧ ∃ x, i = .ldMemIVx x ∨ i = .ldVxMemI x)) := by
  cases h with
  | ldI nnn => exact .inr ⟨zextAddr_toNat_le nnn, .inl ⟨nnn, rfl⟩⟩
  | addIVx x => exact .inr ⟨ofNat_mod_toNat_le _, .inr (.inl ⟨x, rfl⟩)⟩
  | ldFVx x => exact .inr ⟨ofNat_mod_toNat_le _, .inr (.inr (.inl ⟨x, rfl⟩))⟩
  | ldMemIVx x | ldVxMemI x =>
    rw [State.advanceI_i]
    split
    · next quirk => exact .inr ⟨ofNat_mod_toNat_le _, .inr (.inr (.inr ⟨quirk, x, by simp⟩))⟩
    · exact .inl rfl
  | _ => exact .inl (by simp)

/-- The stack loses its last entry to PC by 00EE, or gains PC by 2nnn where there is room; nothing else changes it. -/
theorem stack_cases (h : ExecEnds s i t) : t.stack = s.stack ∨
    (i = .ret ∧ s.stack = t.stack ++ [t.pc]) ∨
    (∃ nnn, i = .call nnn ∧ s.stackFull = false ∧ t.stack = s.stack ++ [s.pc]) := by
  cases h with
  | ret l a hl => exact .inr (.inl ⟨rfl, hl⟩)
  | call nnn room => exact .inr (.inr ⟨nnn, rfl, room, rfl⟩)
  | _ => exact .inl (by simp)

theorem dt_cases (h : ExecEnds s i t) : t.dt = s.dt ∨ ∃ x, i = .ldDTVx x := by
  cases h with
  | ldDTVx x => exact .inr ⟨x, rfl⟩
  | _ => exact .inl (by simp)

theorem st_cases (h : ExecEnds s i t) : t.st = s.st ∨ ∃ x, i = .ldSTVx x := by
  cases h with
  | ldSTVx x => exact .inr ⟨x, rfl⟩
  | _ => exact .inl (by simp)

theorem disp_cases (h : ExecEnds s i t) : t.disp = s.disp ∨ i = .cls ∨ ∃ x y n, i = .drw x y n := by
  cases h with
  | cls => exact .inr (.inl rfl)
  | drw x y n => exact .inr (.inr ⟨x, y, n, rfl⟩)
  | _ => exact .inl (by simp)

/-- Memory changes by the bytes that Fx33 or Fx55 stores. -/
theorem mem_cases (h : ExecEnds s i t) : t.mem = s.mem ∨
    (∃ x, i = .ldBVx x ∨ i = .ldMemIVx x) ∧ ∃ a bs, t.mem = s.mem.writeList s.cfg a bs := by
  cases h with
  | ldBVx x => exact .inr ⟨⟨x, .inl rfl⟩, _, _, rfl⟩
  | ldMemIVx x => exact .inr ⟨⟨x, .inr rfl⟩, _, _, State.advanceI_mem ..⟩
  | _ => exact .inl (by simp)

/-- After a fetch PC is in 2..4096; a skip, a jump, a return or a rewind then leaves it at most 0x10FE (R26). -/
theorem pc_le (h : ExecEnds s i t) (hlo : 2 ≤ s.pc.toNat) (hhi : s.pc.toNat ≤ 4096)
    (hstack : ∀ a ∈ s.stack, a.toNat ≤ 4096) : t.pc.toNat ≤ 0x10FE := by
  cases h with
  | ret l a hl =>
    have := hstack a (by simp [hl])
    simp only [State.setPc_pc]; omega
  | jp nnn | call nnn =>
    have := zextAddr_toNat_le nnn
    simp only [State.setPc_pc]; omega
  | jpV0 nnn => exact jpV0_target_le nnn _
  | seImm | sneImm | seReg | sneReg | skp | sknp =>
    exact (pc_skipIf_le s _).trans (by omega)
  | ldVxKWait => simp [BitVec.toNat_sub]; omega
  | retNoop => omega
  | _ => simp; omega

end ExecEnds

/-- An instruction completes and leaves the block alone, or its next state is one dispatched error of its own. -/
theorem exec_next_cases {i : Instr} {s t : State} (h : exec i s = .next t) :
    SameBlock s t ∨ ∃ e, e ≠ .unknownOpcode ∧ t = raiseExecute e (encode i) s := by
  obtain ⟨u, hu, hs⟩ := exec_endsAllOrNothing i s
  cases hu.symm.trans h
  exact hs

/-- The configuration, the keys and the sound gate are no instruction's to write (R31, R33, R36). -/
theorem exec_keys_gate_cfg {i : Instr} {s t : State} (h : exec i s = .next t) :
    t.keys = s.keys ∧ t.soundGate = s.soundGate ∧ t.cfg = s.cfg := by
  rcases exec_next_cases h with ⟨hcfg, hkeys, hgate, -⟩ | ⟨e, -, rfl⟩
  · exact ⟨hkeys, hgate, hcfg⟩
  · simp

/-! ### Which components an instruction writes -/

/-- Settles O45: no ending of an instruction writes a register outside its column. -/
theorem registersAreWrittenAsListed : Obligations.RegistersAreWrittenAsListed :=
  fun _ _ _ _ h hr => (exec_ends h).getV_eq hr

/-- Settles O47: a completing flag writer leaves a flag byte, and VF is a register like any other for the rest. -/
theorem onlySixInstructionsWriteTheFlag : Obligations.OnlySixInstructionsWriteTheFlag := by
  intro i s t h
  refine ⟨fun hw hlog => ?_, fun _ hvF => (exec_ends h).getV_eq hvF⟩
  obtain ⟨b, hb⟩ := (exec_ends h).getV_flag hw hlog
  rw [hb]
  exact flagByte_zero_or_one b

/-- Settles O48: one lemma for each component says which endings change it. -/
theorem stateIsWrittenAsListed : Obligations.StateIsWrittenAsListed := by
  intro i s t h
  have ends := exec_ends h
  obtain ⟨hkeys, hgate, hcfg⟩ := exec_keys_gate_cfg h
  refine ⟨fun hi => ?_, fun hstack => ?_, ends.dt_cases.resolve_left, ends.st_cases.resolve_left, ?_, ?_, hkeys, hgate, hcfg⟩
  · exact (ends.i_cases.resolve_left hi).2
  · rcases ends.stack_cases.resolve_left hstack with ⟨rfl, -⟩ | ⟨nnn, rfl, -⟩
    · exact .inl rfl
    · exact .inr ⟨nnn, rfl⟩
  · rintro ⟨r, c, hpixel⟩
    exact ends.disp_cases.resolve_left fun hd => hpixel (by rw [hd])
  · rintro ⟨a, hbyte⟩
    exact (ends.mem_cases.resolve_left fun hm => hbyte (State.readByte_of_mem hcfg hm a)).1

/-! ### The reads column of R24 -/

/-- The second state is the first but for what register r holds. -/
def SameButReg (r : Reg) (s u : State) : Prop := (∃ v, u = { s with v := v }) ∧ ∀ q, q ≠ r → u.getV q = s.getV q

/-- A state update that neither reads nor writes a register. -/
def RegBlind (f : State → State) : Prop := ∀ s v, f { s with v := v } = { f s with v := v }

theorem regBlind_skipIf (c : Bool) : RegBlind (·.skipIf c) := fun _ _ => by cases c <;> rfl

theorem regBlind_advanceI (x : Reg) : RegBlind (·.advanceI x) := fun s v => by
  unfold State.advanceI
  cases h : s.cfg.loadStoreQuirk <;> simp [h, State.setI]

theorem regBlind_raiseExecute (e : RunError) (w : Word) : RegBlind (raiseExecute e w) := fun s v => by
  unfold raiseExecute dispatch
  cases policyOf s.cfg e <;> rfl

theorem RegBlind.v_eq {f : State → State} (hf : RegBlind f) (s : State) : (f s).v = s.v :=
  (congrArg State.v (hf s s.v) :)

theorem RegBlind.setV {f : State → State} (hf : RegBlind f) (s : State) (r : Reg) (b : Byte) :
    f (s.setV r b) = (f s).setV r b := (hf s _).trans (by rw [State.setV, hf.v_eq])

namespace SameButReg

variable {r : Reg} {s u : State}

theorem of_setV (r : Reg) (b : Byte) (s : State) : SameButReg r s (s.setV r b) :=
  ⟨⟨_, rfl⟩, fun _ h => State.getV_setV_ne s b h⟩

theorem regBlind (h : SameButReg r s u) {f : State → State} (hf : RegBlind f) : SameButReg r (f s) (f u) := by
  obtain ⟨⟨v, rfl⟩, hq⟩ := h
  refine ⟨⟨v, hf s v⟩, fun q hqr => ?_⟩
  rw [State.getV_of_v (hf.v_eq _), State.getV_of_v (hf.v_eq s), hq q hqr]

theorem setPc (h : SameButReg r s u) (a : Word) : SameButReg r (s.setPc a) (u.setPc a) :=
  h.regBlind (f := (·.setPc a)) fun _ _ => rfl

theorem setI (h : SameButReg r s u) (a : Word) : SameButReg r (s.setI a) (u.setI a) :=
  h.regBlind (f := (·.setI a)) fun _ _ => rfl

theorem setDt (h : SameButReg r s u) (b : Byte) : SameButReg r (s.setDt b) (u.setDt b) :=
  h.regBlind (f := (·.setDt b)) fun _ _ => rfl

theorem setSt (h : SameButReg r s u) (b : Byte) : SameButReg r (s.setSt b) (u.setSt b) :=
  h.regBlind (f := (·.setSt b)) fun _ _ => rfl

theorem setDisp (h : SameButReg r s u) (d : Display) : SameButReg r (s.setDisp d) (u.setDisp d) :=
  h.regBlind (f := (·.setDisp d)) fun _ _ => rfl

theorem takeDraw (h : SameButReg r s u) : SameButReg r s.takeDraw u.takeDraw := h.regBlind fun _ _ => rfl

theorem skipIf (h : SameButReg r s u) (c : Bool) : SameButReg r (s.skipIf c) (u.skipIf c) :=
  h.regBlind (regBlind_skipIf c)

theorem advanceI (h : SameButReg r s u) (x : Reg) : SameButReg r (s.advanceI x) (u.advanceI x) :=
  h.regBlind (regBlind_advanceI x)

theorem setV (h : SameButReg r s u) (x : Reg) (b : Byte) : SameButReg r (s.setV x b) (u.setV x b) := by
  obtain ⟨⟨v, rfl⟩, hq⟩ := h
  refine ⟨⟨_, rfl⟩, fun q hqr => ?_⟩
  simp only [State.getV_setV, hq q hqr]

theorem setResultFlag (h : SameButReg r s u) (x : Reg) (b f : Byte) :
    SameButReg r (s.setResultFlag x b f) (u.setResultFlag x b f) := (h.setV x b).setV vF f

/-- Fx65 reads its bytes from memory; a register above x keeps what it held. -/
theorem loadedRegs (h : SameButReg r s u) (x : Reg) :
    SameButReg r { s with v := s.loadedRegs x } { u with v := u.loadedRegs x } := by
  obtain ⟨⟨v, rfl⟩, hq⟩ := h
  refine ⟨⟨_, rfl⟩, fun q hqr => ?_⟩
  rw [State.getV, State.getV, loadedRegs_getElem, loadedRegs_getElem, hq q hqr]
  rfl

end SameButReg

/-- Both outcomes are next states, the same but for what register r holds. -/
def SameOutButReg (r : Reg) (o p : Out) : Prop := ∃ t u, o = .next t ∧ p = .next u ∧ SameButReg r t u

namespace SameOutButReg

variable {r : Reg} {s t u : State}

theorem next (h : SameButReg r t u) : SameOutButReg r (.next t) (.next u) := ⟨t, u, rfl, rfl, h⟩

theorem error (e : RunError) (w : Word) (r : Reg) (b : Byte) (s : State) :
    SameOutButReg r (conclude w s (.error e)) (conclude w (s.setV r b) (.error e)) :=
  next ((SameButReg.of_setV r b s).regBlind (regBlind_raiseExecute e w))

/-- A body that neither reads nor writes r ends with either value in r alike. -/
theorem of_map {f : State → Except RunError State} {b : Byte} (hf : f (s.setV r b) = (f s).map (·.setV r b)) (w : Word) :
    SameOutButReg r (conclude w s (f s)) (conclude w (s.setV r b) (f (s.setV r b))) := by
  rw [hf]
  cases f s with
  | ok t => exact next (SameButReg.of_setV r b t)
  | error e => exact error e w r b s

end SameOutButReg

section

variable {r : Reg} (b : Byte) (s : State)

theorem getV_setV_unread {x : Reg} (h : ¬ r = x) : (s.setV r b).getV x = s.getV x := State.getV_setV_ne s b (Ne.symm h)

theorem shiftSource_setV {x y : Reg} (h : ¬ if s.cfg.shiftQuirk then r = y else r = x) :
    (s.setV r b).shiftSource x y = s.shiftSource x y := by
  unfold State.shiftSource
  rw [State.setV_cfg]
  split
  · next hq => rw [getV_setV_unread b s (by simpa [hq] using h)]
  · next hq => rw [getV_setV_unread b s (by simpa [hq] using h)]

theorem regsUpTo_setV {x : Reg} (h : ¬ r ≤ x) : (s.setV r b).regsUpTo x = s.regsUpTo x := by
  refine List.map_congr_left fun k hk => State.getV_setV_ne s b ?_
  rintro rfl
  have := List.mem_range.mp hk
  exact h (Fin.le_def.mpr (by simp; omega))

theorem returnFrom_setV : returnFrom (s.setV r b) = (returnFrom s).map (·.setV r b) := by
  unfold returnFrom State.pop
  simp only [State.setV_stack, State.setV_cfg]
  cases s.stack.getLast? with
  | none => cases s.cfg.retEmptyPolicy <;> rfl
  | some a => rfl

theorem callTo_setV (nnn : Addr) : callTo nnn (s.setV r b) = (callTo nnn s).map (·.setV r b) := by
  unfold callTo State.push
  rw [show (s.setV r b).stackFull = s.stackFull from rfl]
  cases s.stackFull <;> rfl

theorem skipPressed_setV {x : Reg} (h : ¬ r = x) : skipPressed x (s.setV r b) = (skipPressed x s).map (·.setV r b) := by
  unfold skipPressed
  rw [getV_setV_unread b s h]
  cases keyIndex (s.getV x) with
  | ok k => exact congrArg Except.ok ((regBlind_skipIf _).setV s r b)
  | error e => rfl

theorem skipReleased_setV {x : Reg} (h : ¬ r = x) :
    skipReleased x (s.setV r b) = (skipReleased x s).map (·.setV r b) := by
  unfold skipReleased
  rw [getV_setV_unread b s h]
  cases keyIndex (s.getV x) with
  | ok k => exact congrArg Except.ok ((regBlind_skipIf _).setV s r b)
  | error e => rfl

theorem bcdBody_setV {x : Reg} (h : ¬ r = x) : bcdBody x (s.setV r b) = (bcdBody x s).map (·.setV r b) := by
  unfold bcdBody
  rw [getV_setV_unread b s h, show (s.setV r b).element 0 = s.element 0 from rfl]
  cases spanFits (s.element 0) 3 <;> rfl

theorem storeBody_setV {x : Reg} (h : ¬ r ≤ x) : storeBody x (s.setV r b) = (storeBody x s).map (·.setV r b) := by
  unfold storeBody
  rw [regsUpTo_setV b s h, show (s.setV r b).element 0 = s.element 0 from rfl]
  cases spanFits (s.element 0) (x.val + 1)
  · rfl
  · exact congrArg Except.ok ((regBlind_advanceI x).setV (s.writeBytes _ _) r b)

open SameOutButReg

theorem execDrw_reads {x y : Reg} (n : Fin 16) (hx : ¬ r = x) (hy : ¬ r = y) :
    SameOutButReg r (execDrw x y n s) (execDrw x y n (s.setV r b)) := by
  unfold execDrw drawBody
  rw [getV_setV_unread b s hx, getV_setV_unread b s hy, show (s.setV r b).element 0 = s.element 0 from rfl,
    show (s.setV r b).span n.val = s.span n.val from rfl, State.setV_disp]
  generalize drawSprite s.disp _ _ _ = drawn
  cases spanFits (s.element 0) n.val
  · exact error _ _ r b s
  · exact next (((SameButReg.of_setV r b s).setDisp _).setV vF _)

theorem execLdVxMemI_reads (x : Reg) : SameOutButReg r (execLdVxMemI x s) (execLdVxMemI x (s.setV r b)) := by
  unfold execLdVxMemI loadBody
  rw [show (s.setV r b).element 0 = s.element 0 from rfl]
  cases spanFits (s.element 0) (x.val + 1)
  · exact error _ _ r b s
  · exact next (((SameButReg.of_setV r b s).loadedRegs x).advanceI x)

theorem execLdVxK_reads (x : Reg) : SameOutButReg r (execLdVxK x s) (execLdVxK x (s.setV r b)) := by
  have h0 := SameButReg.of_setV r b s
  unfold execLdVxK pollKey
  rw [show (s.setV r b).pressed = s.pressed from rfl, State.setV_draws]
  cases pickKey (Config.keyChoice s.draws) s.pressed with
  | some k => exact next (h0.setV x _).takeDraw
  | none => exact next (h0.setPc _)

/-- An instruction ends alike, but for r itself, with any two values in a register r that it does not read. -/
theorem exec_reads {i : Instr} (hr : ¬ Reads s.cfg.shiftQuirk i r) : SameOutButReg r (exec i s) (exec i (s.setV r b)) := by
  have h0 := SameButReg.of_setV r b s
  cases i with
  | cls => exact next (h0.setDisp _)
  | ret => exact of_map (returnFrom_setV b s) _
  | call nnn => exact of_map (callTo_setV b s nnn) _
  | skp x => exact of_map (skipPressed_setV b s hr) _
  | sknp x => exact of_map (skipReleased_setV b s hr) _
  | ldBVx x => exact of_map (bcdBody_setV b s hr) _
  | ldMemIVx x => exact of_map (storeBody_setV b s hr) _
  | ldVxMemI x => exact execLdVxMemI_reads b s x
  | ldVxK x => exact execLdVxK_reads b s x
  | drw x y n =>
    obtain ⟨hx, hy⟩ := not_or.mp hr
    exact execDrw_reads b s n hx hy
  | jp => exact next (h0.setPc _)
  | ldI => exact next (h0.setI _)
  | ldImm x | ldVxDT x => exact next (h0.setV x _)
  | rnd x => exact next (h0.setV x _).takeDraw
  | jpV0 =>
    simp only [exec, execJpV0, getV_setV_unread b s hr]
    exact next (h0.setPc _)
  | seImm | sneImm =>
    simp only [exec, execSeImm, execSneImm, getV_setV_unread b s hr]
    exact next (h0.skipIf _)
  | seReg | sneReg =>
    obtain ⟨hx, hy⟩ := not_or.mp hr
    simp only [exec, execSeReg, execSneReg, getV_setV_unread b s hx, getV_setV_unread b s hy]
    exact next (h0.skipIf _)
  | addImm | ldReg =>
    simp only [exec, execAddImm, execLdReg, getV_setV_unread b s hr]
    exact next (h0.setV ..)
  | orReg | andReg | xorReg =>
    obtain ⟨hx, hy⟩ := not_or.mp hr
    simp only [exec, execOrReg, execAndReg, execXorReg, getV_setV_unread b s hx, getV_setV_unread b s hy]
    exact next (h0.setV ..)
  | addReg | sub | subn =>
    obtain ⟨hx, hy⟩ := not_or.mp hr
    simp only [exec, execAddReg, execSub, execSubn, getV_setV_unread b s hx, getV_setV_unread b s hy]
    exact next (h0.setResultFlag ..)
  | shr | shl =>
    simp only [exec, execShr, execShl, shiftSource_setV b s hr]
    exact next (h0.setResultFlag ..)
  | ldDTVx =>
    simp only [exec, execLdDTVx, getV_setV_unread b s hr]
    exact next (h0.setDt _)
  | ldSTVx =>
    simp only [exec, execLdSTVx, getV_setV_unread b s hr]
    exact next (h0.setSt _)
  | addIVx | ldFVx =>
    simp only [exec, execAddIVx, execLdFVx, getV_setV_unread b s hr]
    exact next (h0.setI _)

end

/-- Settles O46: exec of the two states gives outcomes that agree but for r. -/
theorem registersAreReadAsListed : Obligations.RegistersAreReadAsListed := by
  intro i s t u r b hr ht hu
  obtain ⟨t', u', ht', hu', ⟨v, rfl⟩, hq⟩ := exec_reads b s hr
  cases ht.symm.trans ht'
  cases hu.symm.trans hu'
  exact ⟨hq, rfl⟩

/-! ### A turn that is not the host's -/

theorem andThen_eq_next {o : Out} {f : State → Out} {t : State} (h : andThen o f = .next t) :
    ∃ u, o = .next u ∧ f u = .next t := by
  cases o with
  | next u => exact ⟨u, rfl, h⟩
  | fault r => cases h
  | refused r => cases h

@[simp] theorem closeTick_runState (s : State) : (closeTick s).runState = s.runState := by
  unfold closeTick
  split <;> rfl

/-- The property is kept by whatever a turn of the core or of the frame driver is made of (R82, R231, R232). -/
structure KeptByCore (P : State → Prop) : Prop where
  plan : ∀ s ts, P s → P { s with turns := ts }
  quota : ∀ s k, P s → P { s with tickLeft := k }
  boundary : ∀ s, P s → P (tickBoundary s)
  instruction : ∀ s t, s.runState = .running → P s → cycle s = .next t → P t

namespace KeptByCore

variable {P : State → Prop} (hP : KeptByCore P) {s t : State}

include hP

theorem of_closeTick (h : P s) : P (closeTick s) := by
  rcases closeTick_cases s with ⟨-, -, e⟩ | ⟨-, e⟩
  · rw [e]; exact hP.boundary s h
  · rw [e]; exact h

theorem of_settle (h : P s) : P (settle s) := by
  rcases settle_cases s with ⟨-, e | e⟩ | ⟨-, e⟩
  · rw [e]; exact hP.of_closeTick h
  · rw [e]; exact h
  · rw [e]; exact hP.quota s none h

theorem of_frameTurn (h : P s) : P (frameTurn s) := by
  rcases frameTurn_cases s with ⟨-, e⟩ | ⟨-, e⟩
  · rw [e]; exact hP.of_closeTick h
  · rw [e]; exact hP.quota s none h

theorem of_coreTurn (h : P s) (ht : coreTurn s = .next t) : P t := by
  rcases coreTurn_cases s with ⟨hrun, e⟩ | ⟨-, e⟩
  · obtain ⟨u, hu, hsettled⟩ := andThen_eq_next (e.symm.trans ht)
    cases hsettled
    have hready : P (takeFromQuota (closeTick s)) := hP.quota _ _ (hP.of_closeTick h)
    have hrunning : (takeFromQuota (closeTick s)).runState = .running := (closeTick_runState s).trans hrun
    exact hP.of_settle (hP.instruction _ u hrunning hready hu)
  · cases e.symm.trans ht
    exact hP.quota s none h

/-- A step is a turn of the core or the frame driver, which keeps the property, or a move of the host. -/
theorem of_step (h : P s) (ht : step s = .next t) :
    P t ∨ ∃ e rest, s.turns = .host e :: rest ∧ hostTurn e { s with turns := rest } = .next t := by
  rcases step_cases s with ⟨-, e⟩ | ⟨rest, -, e⟩ | ⟨rest, -, e⟩ | ⟨ev, rest, hev, e⟩
  · exact .inl (hP.of_coreTurn h (e ▸ ht))
  · exact .inl (hP.of_coreTurn (hP.plan s rest h) (e ▸ ht))
  · cases e.symm.trans ht
    exact .inl (hP.of_frameTurn (hP.plan s rest h))
  · exact .inr ⟨ev, rest, hev, e ▸ ht⟩

end KeptByCore

/-! ### What no step of the core touches -/

/-- t is a later state of the block of s, with its configuration and keys, and error_log at most longer (R31, R35, R36). -/
def CoreKeeps (s t : State) : Prop := t.cfg = s.cfg ∧ t.keys = s.keys ∧ s.errorLog <+: t.errorLog

theorem CoreKeeps.trans {s t u : State} (h : CoreKeeps s t) (h' : CoreKeeps t u) : CoreKeeps s u :=
  let ⟨hcfg, hkeys, hlog⟩ := h
  let ⟨hcfg', hkeys', hlog'⟩ := h'
  ⟨hcfg'.trans hcfg, hkeys'.trans hkeys, hlog.trans hlog'⟩

theorem dispatch_keeps (p : ErrorPolicy) (e : RunError) (ia : Word) (w : Option Word) (s : State) :
    CoreKeeps s (dispatch p e ia w s) := by
  obtain ⟨hlog, -, -, -, -, -, -, -, -, -, -, hcfg, hkeys, -⟩ := dispatch_taken p e ia w s
  exact ⟨hcfg, hkeys, _, hlog.symm⟩

theorem exec_keeps {i : Instr} {s t : State} (h : exec i s = .next t) : CoreKeeps s t := by
  rcases exec_next_cases h with ⟨hcfg, hkeys, -, -, -, hlog, -⟩ | ⟨e, -, rfl⟩
  · exact ⟨hcfg, hkeys, by rw [hlog]⟩
  · exact dispatch_keeps ..

theorem cycle_keeps {s t : State} (h : cycle s = .next t) : CoreKeeps s t := by
  rcases cycle_cases s with ⟨a, -, -, e⟩ | ⟨i, -, -, e⟩ | ⟨c, -, -, e⟩
  · cases e.symm.trans h; exact dispatch_keeps ..
  · exact exec_keeps (i := i) (s := s.setPc (s.pc + 2)) (e ▸ h)
  · cases e.symm.trans h; exact dispatch_keeps (s := s.setPc (s.pc + 2)) ..

theorem coreKeeps_kept (s : State) : KeptByCore (CoreKeeps s) where
  plan _ _ h := h
  quota _ _ h := h
  boundary _ h := h
  instruction _ _ _ h ht := h.trans (cycle_keeps ht)

theorem hostTurn_keeps {e : HostEvent} {s t : State} (h : hostTurn e s = .next t) :
    t.cfg = s.cfg ∧ t.errorLog = s.errorLog := by
  rcases hostTurn_cases h with ⟨_, -, -, -, rfl⟩ | ⟨_, -, -, -, rfl⟩ | ⟨-, -, -, rfl⟩ | ⟨-, -, rfl⟩ | ⟨-, -, rfl⟩ | ⟨-, rfl⟩ |
    ⟨_, _, -, rfl⟩ | ⟨-, rfl⟩
  all_goals exact ⟨rfl, rfl⟩

/-- Settles O49: the core's and the frame driver's turns keep all three; a host's turn keeps configuration and error_log. -/
theorem stepsKeepConfigurationKeysAndLog : Obligations.StepsKeepConfigurationKeysAndLog := by
  intro s t h
  rcases (coreKeeps_kept s).of_step ⟨rfl, rfl, List.prefix_rfl⟩ h with ⟨hcfg, hkeys, l, hl⟩ | ⟨e, rest, hturn, hhost⟩
  · exact ⟨hcfg, ⟨l, hl.symm⟩, fun _ => hkeys⟩
  · obtain ⟨hcfg, hlog⟩ := hostTurn_keeps hhost
    exact ⟨hcfg, ⟨[], by simpa using hlog⟩, fun hno => absurd hturn (hno e rest)⟩

/-! ### The invariant -/

/-- PC past a fetched instruction: the fetch read within memory, so the sum is exact (R80). -/
theorem toNat_add_two {a : Word} (h : a.toNat ≤ 4094) : (a + 2).toNat = a.toNat + 2 := by
  simp [BitVec.toNat_add]; omega

namespace State.Inv

variable {s t : State}

/-- The invariant does not speak of registers, timers, display, keys, sound gate, quota, replies, plan and draws. -/
theorem frame (h : s.Inv) {v dt st disp keys drawFlag soundGate tickLeft hostOut turns draws} :
    State.Inv { s with v, dt, st, disp, keys, drawFlag, soundGate, tickLeft, hostOut, turns, draws } := { h with }

theorem setPc (h : s.Inv) {a : Word} (ha : a.toNat ≤ 0x10FE) : (s.setPc a).Inv := { h with pcInRange := ha }

/-- Taking an error keeps the invariant of a loaded block: the report is logged before it is held. -/
theorem of_dispatch (h : s.Inv) (hl : s.loaded = true) (p : ErrorPolicy) (e : RunError) (ia : Word) (w : Option Word) :
    (dispatch p e ia w s).Inv := by
  have logged : ∀ r ∈ s.errorLog ++ [report e ia w], r.cause ≠ .programTooLarge := by
    intro r hr
    rcases List.mem_append.mp hr with hr | hr
    · exact h.neverTooLarge r hr
    · exact List.mem_singleton.mp hr ▸ report_cause e ia w
  rcases dispatch_eq p e ia w s with ⟨-, hd⟩ | ⟨-, hd⟩
  · rw [hd]
    exact { h with
      faultIffFaulted := by simp
      faultLogged := by simp
      runsLoaded := fun _ => hl
      neverTooLarge := logged }
  · rw [hd]
    exact { h with
      faultLogged := fun r hr => List.mem_append_left _ (h.faultLogged r hr)
      neverTooLarge := logged }

/-- The stack stays within its bound and holds addresses at most 4096: 2nnn pushes the PC of a fetched instruction (R27). -/
theorem stack_of_exec (h : s.Inv) {i : Instr} (ends : ExecEnds s i t) (hpc : s.pc.toNat ≤ 4096) (hcfg : t.cfg = s.cfg) :
    t.stackBounded ∧ ∀ a ∈ t.stack, a.toNat ≤ 4096 := by
  unfold stackBounded
  rw [hcfg]
  rcases ends.stack_cases with hs | ⟨-, hs⟩ | ⟨nnn, -, room, hs⟩
  · rw [hs]; exact ⟨h.stackDepth, h.stackValues⟩
  · have hsub : ∀ a ∈ t.stack, a ∈ s.stack := fun a ha => hs ▸ List.mem_append_left _ ha
    refine ⟨fun d hd => ?_, fun a ha => h.stackValues a (hsub a ha)⟩
    have := h.stackDepth d hd
    rw [hs, List.length_append] at this
    omega
  · rw [hs]
    refine ⟨fun d hd => ?_, fun a ha => ?_⟩
    · have hne : s.stack.length ≠ d := by simpa [stackFull, hd] using room
      have := h.stackDepth d hd
      simp only [List.length_append, List.length_singleton]; omega
    · rcases List.mem_append.mp ha with ha | ha
      · exact h.stackValues a ha
      · exact List.mem_singleton.mp ha ▸ hpc

/-- An instruction of a loaded block keeps the invariant, with PC where a fetch leaves it. -/
theorem of_exec (h : s.Inv) (hl : s.loaded = true) (hlo : 2 ≤ s.pc.toNat) (hhi : s.pc.toNat ≤ 4096) {i : Instr}
    (ht : exec i s = .next t) : t.Inv := by
  have ends := exec_ends ht
  rcases exec_next_cases ht with ⟨hcfg, -, -, hrun, hfault, hlog, hloaded, -⟩ | ⟨e, -, rfl⟩
  · obtain ⟨hdepth, hvalues⟩ := h.stack_of_exec ends hhi hcfg
    refine ⟨?_, ?_, hdepth, hvalues, ends.pc_le hlo hhi h.stackValues, ?_, ?_, ?_, ?_⟩
    · rw [hcfg]
      rcases ends.mem_cases with hm | ⟨-, a, bs, hm⟩
      · exact hm ▸ h.memWf
      · exact hm ▸ Memory.writeList_wf s.cfg bs a h.memWf
    · rcases ends.i_cases with hi | ⟨hi, -⟩
      · exact hi ▸ h.iInRange
      · exact hi
    · rw [hfault, hrun]; exact h.faultIffFaulted
    · rw [hfault, hlog]; exact h.faultLogged
    · rw [hrun, hloaded]; exact h.runsLoaded
    · rw [hlog]; exact h.neverTooLarge
  · exact h.of_dispatch hl ..

theorem of_fetch (h : s.Inv) (hpc : s.pc.toNat ≤ 4094) : (s.setPc (s.pc + 2)).Inv :=
  h.setPc (by rw [toNat_add_two hpc]; omega)

/-- A cycle of a Running block keeps the invariant. -/
theorem of_cycle (h : s.Inv) (hrun : s.runState = .running) (ht : cycle s = .next t) : t.Inv := by
  have hl : s.loaded = true := h.runsLoaded (by simp [hrun])
  rcases cycle_cases s with ⟨a, -, -, e⟩ | ⟨i, hpc, -, e⟩ | ⟨c, hpc, -, e⟩
  · cases e.symm.trans ht
    exact h.of_dispatch hl ..
  · have hnext := toNat_add_two hpc
    exact (h.of_fetch hpc).of_exec hl (by rw [State.setPc_pc]; omega) (by rw [State.setPc_pc]; omega) (e ▸ ht)
  · cases e.symm.trans ht
    exact (h.of_fetch hpc).of_dispatch hl ..

/-- Every turn that is not the host's keeps the invariant. -/
theorem kept : KeptByCore State.Inv where
  plan _ _ h := h.frame
  quota _ _ h := h.frame
  boundary _ h := h.frame
  instruction _ _ hrun h ht := h.of_cycle hrun ht

/-- A block right after construction has the invariant, with an empty error_log. -/
theorem construct (c : Config) : (State.construct c).Inv where
  memWf := Memory.reset_wf c
  iInRange := by simp [State.construct]
  stackDepth := fun _ _ => Nat.zero_le _
  stackValues := by simp [State.construct]
  pcInRange := by simp [State.construct]
  faultIffFaulted := by simp [State.construct]
  faultLogged := by simp [State.construct]
  runsLoaded := by simp [State.construct]
  neverTooLarge := by simp [State.construct]

/-- A full reset keeps error_log, and holds no fault. -/
theorem of_resetBlock (h : s.Inv) : (resetBlock s).Inv :=
  { construct s.cfg with
    faultLogged := fun _ hr => nomatch hr
    neverTooLarge := h.neverTooLarge }

/-- Run and PauseToggle move a loaded block that holds no fault between two run states other than Faulted (R234). -/
theorem setRunState (h : s.Inv) (hl : s.loaded = true) (hf : s.runState ≠ .faulted) {rs : RunState} (hrs : rs ≠ .faulted) :
    State.Inv { s with runState := rs } :=
  { h with
    faultIffFaulted := iff_of_false (mt h.faultIffFaulted.mp hf) hrs
    runsLoaded := fun _ => hl }

/-- An accepted Load keeps memory in canonical form (R262). -/
theorem of_load (h : s.Inv) (bs : List Byte) (a : Nat) : State.Inv { s.writeBytes a bs with loaded := true } :=
  { h with
    memWf := Memory.writeList_wf s.cfg bs a h.memWf
    runsLoaded := fun _ => rfl }

/-- Every host interaction keeps the invariant. -/
theorem of_hostTurn (h : s.Inv) {e : HostEvent} (ht : hostTurn e s = .next t) : t.Inv := by
  rcases hostTurn_cases ht with ⟨_, -, -, -, rfl⟩ | ⟨bytes, -, -, -, rfl⟩ | ⟨-, hr, hl, rfl⟩ | ⟨-, hr, rfl⟩ | ⟨-, hr, rfl⟩ |
    ⟨-, rfl⟩ | ⟨_, _, -, rfl⟩ | ⟨-, rfl⟩
  · exact h.frame
  · exact (h.of_load bytes 0x200).frame
  · exact h.setRunState hl (by simp [hr]) (by simp)
  · exact h.setRunState (h.runsLoaded (by simp [hr])) (by simp [hr]) (by simp)
  · exact h.setRunState (h.runsLoaded (by simp [hr])) (by simp [hr]) (by simp)
  · exact h.of_resetBlock
  · exact h.frame
  · exact h.frame

end State.Inv

/-- Settles O51: the core's and the frame driver's turns are made of parts that keep the invariant, and so is each host
event's move. -/
theorem invariantIsKeptByEveryStep : Obligations.InvariantIsKeptByEveryStep := by
  intro s t h ht
  rcases State.Inv.kept.of_step h ht with h' | ⟨e, rest, -, hhost⟩
  · exact h'
  · exact h.frame.of_hostTurn hhost

/-- Settles O50: the reset state is a construction like any other. -/
theorem invariantAtReset : Obligations.InvariantAtReset :=
  ⟨State.Inv.construct, State.Inv.construct resetConfig⟩

/-! ### Stop -/

theorem resetByte_font (c : Config) {k : Nat} (h : k < 80) : resetByte c (c.fontBase.toNat + k) = c.fontData[k] := by
  simp [resetByte, h]

theorem resetByte_outside (c : Config) {a : Nat} (h : a < c.fontBase.toNat ∨ c.fontBase.toNat + 80 ≤ a) :
    resetByte c a = 0 := by
  rw [resetByte, dif_neg (by omega)]

/-- Settles O57: Stop is `resetBlock`, whose memory lists no byte, so that every byte reads as its reset contents. -/
theorem stopIsAFullReset : Obligations.StopIsAFullReset := by
  intro s rest hturn
  refine ⟨resetBlock { s with turns := rest }, by simp [step, nextTurn, hturn, hostTurn], fun k h => resetByte_font s.cfg h,
    fun a h => resetByte_outside s.cfg h, fun r => ?_, fun k => ?_, rfl, rfl, rfl, rfl, rfl, Display.pixel_blank, rfl, rfl,
    rfl, rfl, rfl, rfl, rfl⟩
  · simp [resetBlock, State.construct, State.getV]
  · simp [resetBlock, State.construct]

end Sys2Proof.Machine

/-! Fx55 and Fx65 within memory, and what a load or a fetch finds where Fx55 stored (R61, R66, R174, R175). -/

namespace Sys2Proof.Machine

/-! ### Fx55 and Fx65 where the span lies within memory -/

/-- The state in which Fx55 completes: V0..Vx at I on, and I moved under LOAD_STORE_QUIRK (R174). -/
def State.stored (s : State) (x : Reg) : State := (s.writeBytes (s.element 0) (s.regsUpTo x)).advanceI x

section Transfer

variable {s : State} {x r : Reg}

/-- The bounds check of Fx55 and Fx65 passes (R176). -/
theorem spanFits_of_le (h : s.i.toNat + x.val ≤ 4095) : spanFits (s.element 0) (x.val + 1) = true :=
  (spanFits_iff ..).mpr (.inr (by simp only [State.element]; omega))

theorem exec_ldMemIVx_of_fits (h : s.i.toNat + x.val ≤ 4095) : exec (.ldMemIVx x) s = .next (s.stored x) := by
  rcases storeBody_cases x s with ⟨-, hb⟩ | ⟨hf, -⟩
  · exact congrArg (conclude (encode (.ldMemIVx x)) s) hb
  · exact absurd (spanFits_of_le h) (by simp [hf])

theorem exec_ldVxMemI_of_fits (h : s.i.toNat + x.val ≤ 4095) :
    exec (.ldVxMemI x) s = .next (State.advanceI { s with v := s.loadedRegs x } x) := by
  rcases loadBody_cases x s with ⟨-, hb⟩ | ⟨hf, -⟩
  · exact congrArg (conclude (encode (.ldVxMemI x)) s) hb
  · exact absurd (spanFits_of_le h) (by simp [hf])

theorem getV_loadedRegs_within (s : State) (h : r ≤ x) :
    State.getV { s with v := s.loadedRegs x } r = s.readByte (s.i.toNat + r.val) := by
  rw [State.getV, loadedRegs_getElem, if_pos h]

theorem State.stored_i_of_noQuirk (hq : s.cfg.loadStoreQuirk = false) : (s.stored x).i = s.i := by
  simp [State.stored, State.advanceI_i, hq]

/-- After Fx55, under either value of LOAD_STORE_QUIRK, the byte at I + r is Vr (R61, R174). -/
theorem State.readByte_stored (h : s.i.toNat + x.val ≤ 4095) (hr : r ≤ x) :
    (s.stored x).readByte (s.i.toNat + r.val) = s.getV r := by
  have hlt : r.val < (s.regsUpTo x).length := by rw [regsUpTo_length]; exact Nat.lt_succ_of_le hr
  have hin : s.i.toNat + (s.regsUpTo x).length ≤ memSize := by rw [regsUpTo_length, memSize]; omega
  calc (s.stored x).readByte (s.i.toNat + r.val)
      = (s.writeBytes s.i.toNat (s.regsUpTo x)).readByte (s.i.toNat + r.val) := State.readByte_advanceI ..
    _ = (s.regsUpTo x)[r.val] := State.readByte_writeBytes_inside s _ _ _ hlt hin
    _ = s.getV r := regsUpTo_getElem s x r.val hlt r.isLt

end Transfer

/-- Settles O14: without LOAD_STORE_QUIRK I stays, so Fx65 reads the very bytes Fx55 stored; memory does not depend on the
registers put in between. -/
theorem storedRegistersLoadBack : Obligations.StoredRegistersLoadBack := by
  intro s x v hfits hquirk
  have hi : (s.stored x).i = s.i := State.stored_i_of_noQuirk hquirk
  refine ⟨_, _, exec_ldMemIVx_of_fits hfits, exec_ldVxMemI_of_fits (by simpa [hi] using hfits),
    fun r hr => ?_, fun r hr => ?_⟩
  · rw [State.getV_advanceI, getV_loadedRegs_within _ hr, hi]
    exact State.readByte_stored hfits hr
  · exact (State.getV_advanceI ..).trans (getV_loadedRegs_above _ (not_le.mpr hr))

/-! ### A fetch of stored bytes -/

/-- A fetch with both bytes within memory gives the word at PC (R80). -/
theorem fetch_of_pc_le {s : State} (h : s.pc.toNat ≤ 4094) : fetch s = .ok (s.fetchWord, s.setPc (s.pc + 2)) := by
  rcases fetch_cases s with ⟨-, e⟩ | ⟨h', -⟩ | ⟨h', -⟩
  · exact e
  · omega
  · omega

theorem fetchWord_setPc (s : State) (a : Word) :
    (s.setPc a).fetchWord = joinBytes (s.readByte a.toNat) (s.readByte (a.toNat + 1)) := rfl

/-- Settles O15: a fetch reads memory as it stands, so it gives the two bytes Fx55 put at I + k and I + k + 1. -/
theorem storedCodeIsFetched : Obligations.StoredCodeIsFetched := by
  intro s x k a hfits hk ha
  have hlt : k.val < x.val := hk
  have hsucc : (k + 1).val = k.val + 1 := Fin.val_add_one_of_lt (hk.trans_le (Fin.le_last x))
  have hhi : (s.stored x).readByte a.toNat = s.getV k := ha ▸ State.readByte_stored hfits hk.le
  have hlo : (s.stored x).readByte (a.toNat + 1) = s.getV (k + 1) := by
    rw [ha, Nat.add_assoc, ← hsucc]
    exact State.readByte_stored hfits (Fin.add_one_le_of_lt hk)
  have hpc : ((s.stored x).setPc a).pc.toNat ≤ 4094 := by rw [State.setPc_pc]; omega
  have hword : ((s.stored x).setPc a).fetchWord = joinBytes (s.getV k) (s.getV (k + 1)) := by
    rw [fetchWord_setPc, hhi, hlo]
  exact ⟨_, _, exec_ldMemIVx_of_fits hfits, hword ▸ fetch_of_pc_le hpc⟩

end Sys2Proof.Machine

/-! The decoder against the encoder, the unknown classes and the opcode table (R70 to R77). -/

namespace Sys2Proof

/-! ### Decoding the word of an instruction -/

theorem decode_encode (d : Decode59) (i : Instr) : decode d (encode i) = .instr i := by
  cases i with
  | cls | ret => rfl
  | jp | call | ldI | jpV0 => simp [encode, decode]
  | seImm | sneImm | ldImm | addImm | rnd => simp [encode, decode]
  | seReg | sneReg => simp [encode, decode, decodeLowNibble]
  | drw => simp [encode, decode]
  | ldReg | orReg | andReg | xorReg | addReg | sub | shr | subn | shl => simp [encode, decode, decodeEight]
  | skp | sknp => simp [encode, decode, decodeE]
  | ldVxDT | ldVxK | ldDTVx | ldSTVx | addIVx | ldFVx | ldBVx | ldMemIVx | ldVxMemI => simp [encode, decode, decodeF]

/-- The byte decoder reads a word stored high byte first, and gives back the bytes after it (R56, R70). -/
theorem decodeBytes_of_decode {d : Decode59} {w : Word} {i : Instr} (h : decode d w = .instr i) (rest : List Byte) :
    decodeBytes d ((wordBytes w).1 :: (wordBytes w).2 :: rest) = .ok (i, rest) := by
  simp [decodeBytes, h]

/-- Settles O1: each format's fields are read back from its word, and the selecting field picks the instruction's branch. -/
theorem decodeOfEncodeIsTheInstruction : Obligations.DecodeOfEncodeIsTheInstruction :=
  fun d i rest => ⟨decode_encode d i, decodeBytes_of_decode (decode_encode d i) rest⟩

/-! ### A word put together again from its fields -/

section OfFields

variable {w : Word} {op : BitVec 4} (h : opField w = op.toNat)

include h

theorem formNNN_fields : formNNN op (nnnField w) = w := by
  apply BitVec.eq_of_toNat_eq
  rw [formNNN_toNat, nnnField_toNat, ← h, opField_eq]
  omega

theorem formXNN_fields : formXNN op (xField w) (nnField w) = w := by
  apply BitVec.eq_of_toNat_eq
  rw [formXNN_toNat, xField_val, nnField_toNat, ← h, opField_eq]
  omega

theorem formXYN_fields : formXYN op (xField w) (yField w) (nField w) = w := by
  apply BitVec.eq_of_toNat_eq
  rw [formXYN_toNat, xField_val, yField_val, nField_val, ← h, opField_eq]
  omega

end OfFields

/-! ### The branches of the decoder -/

/-- What the decoder answers for a word, by the word's family (R74). -/
inductive DecodedBy (d : Decode59) (w : Word) : Decoded → Prop
  | zero (op : opField w = 0x0) : DecodedBy d w (decodeZero w)
  | jp (op : opField w = 0x1) : DecodedBy d w (.instr (.jp (nnnField w)))
  | call (op : opField w = 0x2) : DecodedBy d w (.instr (.call (nnnField w)))
  | seImm (op : opField w = 0x3) : DecodedBy d w (.instr (.seImm (xField w) (nnField w)))
  | sneImm (op : opField w = 0x4) : DecodedBy d w (.instr (.sneImm (xField w) (nnField w)))
  | seReg (op : opField w = 0x5) : DecodedBy d w (decodeLowNibble d (nField w) (.seReg (xField w) (yField w)))
  | ldImm (op : opField w = 0x6) : DecodedBy d w (.instr (.ldImm (xField w) (nnField w)))
  | addImm (op : opField w = 0x7) : DecodedBy d w (.instr (.addImm (xField w) (nnField w)))
  | eight (op : opField w = 0x8) : DecodedBy d w (decodeEight (xField w) (yField w) (nField w))
  | sneReg (op : opField w = 0x9) : DecodedBy d w (decodeLowNibble d (nField w) (.sneReg (xField w) (yField w)))
  | ldI (op : opField w = 0xA) : DecodedBy d w (.instr (.ldI (nnnField w)))
  | jpV0 (op : opField w = 0xB) : DecodedBy d w (.instr (.jpV0 (nnnField w)))
  | rnd (op : opField w = 0xC) : DecodedBy d w (.instr (.rnd (xField w) (nnField w)))
  | drw (op : opField w = 0xD) : DecodedBy d w (.instr (.drw (xField w) (yField w) (nField w)))
  | e (op : opField w = 0xE) : DecodedBy d w (decodeE (xField w) (nnField w).toNat)
  | f (op : opField w = 0xF) : DecodedBy d w (decodeF (xField w) (nnField w).toNat)

theorem decodedBy_decode (d : Decode59) (w : Word) : DecodedBy d w (decode d w) := by
  have hlt : opField w < 16 := BitVec.isLt _
  unfold decode
  split
  case h_16 =>
    simp only [imp_false] at *
    exact .f (by omega)
  all_goals constructor; assumption

/-! ### The word of a decoded instruction -/

theorem encode_of_decodeZero {w : Word} {i : Instr} (h : decodeZero w = .instr i) : encode i = w := by
  unfold decodeZero at h
  split at h
  · next hw => cases h; exact hw.symm
  · split at h
    · next hw => cases h; exact hw.symm
    · cases h

theorem encode_of_decodeEight {x y : Reg} {n : Nat} {i : Instr} (h : decodeEight x y n = .instr i) :
    encode i = formXYN 0x8 x y (Fin.ofNat 16 n) := by
  unfold decodeEight at h
  split at h <;> cases h <;> rfl

theorem encode_of_decodeE {x : Reg} {nn : Nat} {i : Instr} (h : decodeE x nn = .instr i) :
    encode i = formXNN 0xE x (BitVec.ofNat 8 nn) := by
  unfold decodeE at h
  split at h <;> cases h <;> rfl

theorem encode_of_decodeF {x : Reg} {nn : Nat} {i : Instr} (h : decodeF x nn = .instr i) :
    encode i = formXNN 0xF x (BitVec.ofNat 8 nn) := by
  unfold decodeF at h
  split at h <;> cases h <;> rfl

theorem decodeLowNibble_eq_instr {d : Decode59} {n : Nat} {i j : Instr} :
    decodeLowNibble d n i = .instr j ↔ i = j ∧ (n = 0 ∨ d = .lax) := by
  unfold decodeLowNibble
  split
  · next h => simp [h]
  · next h => simp [h]

theorem formXYN_clearNibble (op : BitVec 4) (x y : Reg) (n : Fin 16) :
    formXYN op x y n &&& 0xFFF0 = formXYN op x y 0 := by
  rw [Laws.formXYN_eq, Laws.formXYN_eq, show (0xFFF0 : Word) = formXNN 0xF 0xF 0xF0 from rfl, Laws.formXNN_and,
    show x &&& 0xF = x by revert x; decide, show op &&& 0xF = op by revert op; decide]
  congr 1
  revert y n; decide

/-- A register skip stands for every word of its family that the decoder accepts: the low nibble is 0 or ignored (R77). -/
theorem formXYN_of_lowNibble {d : Decode59} {w : Word} {op : BitVec 4} (hop : opField w = op.toNat)
    (hn : (nField w).val = 0 ∨ d = .lax) :
    formXYN op (xField w) (yField w) 0 = w ∨ (d = .lax ∧ formXYN op (xField w) (yField w) 0 = w &&& 0xFFF0) := by
  rcases hn with hn | hd
  · have h0 : nField w = 0 := Fin.ext hn
    exact .inl (h0 ▸ formXYN_fields hop)
  · exact .inr ⟨hd, by rw [← formXYN_clearNibble op _ _ (nField w), formXYN_fields hop]⟩

/-- A decoded word is its instruction's word, but for the nibble that lax ignores. -/
theorem encode_of_decode {d : Decode59} {w : Word} {i : Instr} (h : decode d w = .instr i) :
    encode i = w ∨ (d = .lax ∧ (opField w = 5 ∨ opField w = 9) ∧ encode i = w &&& 0xFFF0) := by
  have branch := decodedBy_decode d w
  generalize decode d w = r at branch h
  cases branch with
  | zero => exact .inl (encode_of_decodeZero h)
  | jp op | call op | ldI op | jpV0 op => cases h; exact .inl (formNNN_fields op)
  | seImm op | sneImm op | ldImm op | addImm op | rnd op => cases h; exact .inl (formXNN_fields op)
  | drw op => cases h; exact .inl (formXYN_fields op)
  | seReg op =>
    obtain ⟨rfl, hn⟩ := decodeLowNibble_eq_instr.mp h
    exact (formXYN_of_lowNibble (op := 0x5) op hn).imp_right fun ⟨hd, e⟩ => ⟨hd, .inl op, e⟩
  | sneReg op =>
    obtain ⟨rfl, hn⟩ := decodeLowNibble_eq_instr.mp h
    exact (formXYN_of_lowNibble (op := 0x9) op hn).imp_right fun ⟨hd, e⟩ => ⟨hd, .inr op, e⟩
  | eight op =>
    have h' : encode i = formXYN 0x8 (xField w) (yField w) (nField w) := by simpa using encode_of_decodeEight h
    exact .inl (h'.trans (formXYN_fields op))
  | e op =>
    have h' : encode i = formXNN 0xE (xField w) (nnField w) := by simpa using encode_of_decodeE h
    exact .inl (h'.trans (formXNN_fields op))
  | f op =>
    have h' : encode i = formXNN 0xF (xField w) (nnField w) := by simpa using encode_of_decodeF h
    exact .inl (h'.trans (formXNN_fields op))

/-- Settles O2: the fields of a word make the word again, and only lax lets a decoded word differ from its instruction's. -/
theorem encodeOfDecodeIsTheWord : Obligations.EncodeOfDecodeIsTheWord := by
  intro w i
  refine ⟨fun h => ?_, fun h => ?_⟩
  · rcases encode_of_decode h with e | ⟨hd, -⟩
    · exact e
    · cases hd
  · rcases encode_of_decode h with e | ⟨-, hop, e⟩
    · exact .inl e
    · exact .inr ⟨hop, e⟩

/-! ### The unknown words -/

/-- The words of a class of R76, by their fields. -/
def UnknownClass.Covers (w : Word) : UnknownClass → Prop
  | .familyZero => opField w = 0 ∧ w ≠ 0x00E0 ∧ w ≠ 0x00EE
  | .lowNibble => (opField w = 5 ∨ opField w = 9) ∧ (nField w).val ≠ 0
  | .familyEight => opField w = 8 ∧ (nField w).val ∉ [0x0, 0x1, 0x2, 0x3, 0x4, 0x5, 0x6, 0x7, 0xE]
  | .familyE => opField w = 0xE ∧ (nnField w).toNat ∉ [0x9E, 0xA1]
  | .familyF => opField w = 0xF ∧ (nnField w).toNat ∉ [0x07, 0x0A, 0x15, 0x18, 0x1E, 0x29, 0x33, 0x55, 0x65]

section Unknown

variable {c : UnknownClass}

theorem decodeZero_eq_unknown {w : Word} :
    decodeZero w = .unknown c ↔ .familyZero = c ∧ w ≠ 0x00E0 ∧ w ≠ 0x00EE := by
  unfold decodeZero
  split
  · next h => simp [h]
  · split
    · next h => simp [h]
    · simp_all

theorem decodeLowNibble_eq_unknown {d : Decode59} {n : Nat} {i : Instr} :
    decodeLowNibble d n i = .unknown c ↔ .lowNibble = c ∧ n ≠ 0 ∧ d ≠ .lax := by
  unfold decodeLowNibble
  split
  · next h =>
    have : ¬ (n ≠ 0 ∧ d ≠ .lax) := by tauto
    simp [this]
  · next h =>
    have := not_or.mp h
    simp [this]

theorem decodeEight_eq_unknown {x y : Reg} {n : Nat} :
    decodeEight x y n = .unknown c ↔ .familyEight = c ∧ n ∉ [0x0, 0x1, 0x2, 0x3, 0x4, 0x5, 0x6, 0x7, 0xE] := by
  unfold decodeEight
  split <;> simp_all

theorem decodeE_eq_unknown {x : Reg} {nn : Nat} :
    decodeE x nn = .unknown c ↔ .familyE = c ∧ nn ∉ [0x9E, 0xA1] := by
  unfold decodeE
  split <;> simp_all

theorem decodeF_eq_unknown {x : Reg} {nn : Nat} :
    decodeF x nn = .unknown c ↔ .familyF = c ∧ nn ∉ [0x07, 0x0A, 0x15, 0x18, 0x1E, 0x29, 0x33, 0x55, 0x65] := by
  unfold decodeF
  split <;> simp_all

/-- Under strict a word is unknown of the class that covers it, and of no other (R74, R76). -/
theorem decode_strict_eq_unknown {w : Word} : decode .strict w = .unknown c ↔ c.Covers w := by
  have branch := decodedBy_decode .strict w
  generalize decode .strict w = r at branch
  cases branch with
  | zero op => rw [decodeZero_eq_unknown]; cases c <;> simp [UnknownClass.Covers, op]
  | seReg op | sneReg op => rw [decodeLowNibble_eq_unknown]; cases c <;> simp [UnknownClass.Covers, op]
  | eight op => rw [decodeEight_eq_unknown]; cases c <;> simp [UnknownClass.Covers, op]
  | e op => rw [decodeE_eq_unknown]; cases c <;> simp [UnknownClass.Covers, op]
  | f op => rw [decodeF_eq_unknown]; cases c <;> simp [UnknownClass.Covers, op]
  | jp op | call op | seImm op | sneImm op | ldImm op | addImm op | ldI op | jpV0 op | rnd op | drw op =>
    cases c <;> simp [UnknownClass.Covers, op]

end Unknown

/-- Settles O3: each class covers a part of one family, read off that family's decoder; the rest is the fields as numbers. -/
theorem unknownWordsAreTheFiveClasses : Obligations.UnknownWordsAreTheFiveClasses := by
  intro w op n nn
  have hn : n < 16 := Nat.mod_lt _ (by decide)
  simp only [decode_strict_eq_unknown, UnknownClass.Covers, opField_eq, nField_val, nnField_toNat]
  refine ⟨?_, Iff.rfl, ?_, Iff.rfl, Iff.rfl⟩
  · rw [Ne, Ne, ← BitVec.toNat_inj, ← BitVec.toNat_inj]
    change w.toNat / 4096 = 0 ∧ ¬ w.toNat = 0x00E0 ∧ ¬ w.toNat = 0x00EE ↔ _
    omega
  · refine and_congr_right fun _ => ?_
    simp only [List.mem_cons, List.not_mem_nil, or_false, not_or]
    omega

theorem decode_lax_eq_strict {w : Word} (h5 : opField w ≠ 5) (h9 : opField w ≠ 9) : decode .lax w = decode .strict w := by
  have branch := decodedBy_decode .lax w
  generalize decode .lax w = r at branch
  cases branch with
  | seReg op => exact absurd op h5
  | sneReg op => exact absurd op h9
  | _ => simp [decode, *]

/-- Settles O4: the register skips' families alone look at DECODE_5_9. -/
theorem laxIgnoresTheLowNibble : Obligations.LaxIgnoresTheLowNibble := by
  intro w
  refine ⟨fun h => ?_, fun h => ?_, decode_lax_eq_strict⟩
  · simp [decode, h, decodeLowNibble]
  · simp [decode, h, decodeLowNibble]

/-- Settles O6: the known words are words of instructions, written out; 5121 has a low nibble that only lax ignores. -/
theorem sampleWordsDecode : Obligations.SampleWordsDecode :=
  ⟨decode_encode _ .ret, decode_encode _ (.jp 0x208), decode_encode _ (.seImm 3 0x42), decode_encode _ (.subn 1 2),
    decode_encode _ (.drw 1 2 5), decode_encode _ (.sknp 5), decode_encode _ (.ldMemIVx 3),
    decode_strict_eq_unknown.mpr ⟨.inl rfl, by decide⟩, (laxIgnoresTheLowNibble 0x5121).1 rfl⟩

/-! ### The opcode table -/

/-- The bits that the mask 0xF000 keeps (R71). -/
theorem and_opMask_toNat (w : Word) : (w &&& 0xF000).toNat = 4096 * opField w := by
  have e : w = formNNN (w.extractLsb' 12 4) (nnnField w) := (formNNN_fields rfl).symm
  rw [e, Laws.formNNN_mask, formNNN_toNat, opField_formNNN]
  rfl

/-- The bits that the mask 0xF00F keeps (R71). -/
theorem and_opNMask_toNat (w : Word) : (w &&& 0xF00F).toNat = 4096 * opField w + (nField w).val := by
  have e : w = formXYN (w.extractLsb' 12 4) (xField w) (yField w) (nField w) := (formXYN_fields rfl).symm
  rw [e, Laws.formXYN_mask, formXYN_toNat, opField_formXYN, nField_formXYN]
  rfl

/-- The bits that the mask 0xF0FF keeps (R71). -/
theorem and_opNnMask_toNat (w : Word) : (w &&& 0xF0FF).toNat = 4096 * opField w + (nnField w).toNat := by
  have e : w = formXNN (w.extractLsb' 12 4) (xField w) (nnField w) := (formXNN_fields rfl).symm
  rw [e, Laws.formXNN_subMask, formXNN_toNat, opField_formXNN, nnField_formXNN]
  rfl

/-- The rows of the opcode table that a word should belong to, by what it decodes to (R75). -/
def Decoded.rows (d : Decode59) : Decoded → List Row
  | .instr i => [i.row d]
  | .unknown _ => []

section Admits

variable {m : String} {p w : Word}

theorem admits_iff (r : Row) (w : Word) : r.admits w ↔ (w &&& r.mask).toNat = r.pattern.toNat := by
  simp only [Row.admits, beq_iff_eq, BitVec.toNat_inj]

theorem admits_word : Row.admits ⟨m, 0xFFFF#16, p⟩ w ↔ opField w = p.toNat / 4096 ∧ w = p := by
  have e : w &&& 0xFFFF#16 = w := BitVec.and_allOnes
  rw [admits_iff, e, BitVec.toNat_inj, iff_and_self]
  rintro rfl
  exact opField_eq w

theorem admits_op (hp : p.toNat % 4096 = 0) : Row.admits ⟨m, 0xF000#16, p⟩ w ↔ opField w = p.toNat / 4096 := by
  have e : Row.admits ⟨m, 0xF000#16, p⟩ w ↔ (w &&& 0xF000).toNat = p.toNat := admits_iff ..
  rw [e, and_opMask_toNat]
  omega

theorem admits_opN (hp : p.toNat % 4096 < 16) :
    Row.admits ⟨m, 0xF00F#16, p⟩ w ↔ opField w = p.toNat / 4096 ∧ (nField w).val = p.toNat % 16 := by
  have e : Row.admits ⟨m, 0xF00F#16, p⟩ w ↔ (w &&& 0xF00F).toNat = p.toNat := admits_iff ..
  have : (nField w).val < 16 := (nField w).isLt
  rw [e, and_opNMask_toNat]
  omega

theorem admits_opNn (hp : p.toNat % 4096 < 256) :
    Row.admits ⟨m, 0xF0FF#16, p⟩ w ↔ opField w = p.toNat / 4096 ∧ (nnField w).toNat = p.toNat % 256 := by
  have e : Row.admits ⟨m, 0xF0FF#16, p⟩ w ↔ (w &&& 0xF0FF).toNat = p.toNat := admits_iff ..
  have := (nnField w).isLt
  rw [e, and_opNnMask_toNat]
  omega

/-- The register skips' rows, with the low nibble fixed or free (R77). -/
theorem admits_lowNibble (d : Decode59) (hp : p.toNat % 4096 = 0) :
    Row.admits ⟨m, d.mask, p⟩ w ↔ opField w = p.toNat / 4096 ∧ ((nField w).val = 0 ∨ d = .lax) := by
  cases d with
  | strict =>
    have e : Row.admits ⟨m, Decode59.strict.mask, p⟩ w ↔ _ := admits_opN (by omega)
    rw [e, show p.toNat % 16 = 0 by omega]; simp
  | lax =>
    have e : Row.admits ⟨m, Decode59.lax.mask, p⟩ w ↔ _ := admits_op hp
    rw [e]; simp

end Admits

section Filter

variable {d : Decode59} {w : Word}

theorem filter_tableLow (h : 8 ≤ opField w) : (tableLow d).filter (·.admits w) = [] := by
  simp [-Bool.not_eq_true, tableLow, admits_word, admits_op, admits_lowNibble]
  omega

theorem filter_tableEight (h : opField w ≠ 8) : tableEight.filter (·.admits w) = [] := by
  simp [tableEight, admits_opN, h]

theorem filter_tableHigh (h : opField w ≤ 8 ∨ opField w = 0xF) : (tableHigh d).filter (·.admits w) = [] := by
  simp [-Bool.not_eq_true, tableHigh, admits_opNn, admits_op, admits_lowNibble]
  omega

theorem filter_tableF (h : opField w ≠ 0xF) : tableF.filter (·.admits w) = [] := by
  simp [tableF, admits_opNn, h]

theorem filter_tableLow_rows (h : opField w < 8) : (tableLow d).filter (·.admits w) = (decode d w).rows d := by
  have branch := decodedBy_decode d w
  generalize decode d w = r at branch
  cases branch with
  | zero op =>
    unfold decodeZero
    split
    · next hw => rw [hw]; cases d <;> decide
    · split
      · next hw => rw [hw]; cases d <;> decide
      · simp_all [tableLow, admits_word, admits_op, admits_lowNibble, Decoded.rows]
  | seReg op =>
    unfold decodeLowNibble
    split
    all_goals simp_all [tableLow, admits_word, admits_op, admits_lowNibble, Decoded.rows, Instr.row]
  | jp op | call op | seImm op | sneImm op | ldImm op | addImm op =>
    simp [tableLow, admits_word, admits_op, admits_lowNibble, op, Decoded.rows, Instr.row]
  | eight op | sneReg op | ldI op | jpV0 op | rnd op | drw op | e op | f op => omega

theorem filter_tableHigh_rows (hlo : 8 < opField w) (hhi : opField w < 15) :
    (tableHigh d).filter (·.admits w) = (decode d w).rows d := by
  have branch := decodedBy_decode d w
  generalize decode d w = r at branch
  cases branch with
  | sneReg op =>
    unfold decodeLowNibble
    split
    all_goals simp_all [tableHigh, admits_opNn, admits_op, admits_lowNibble, Decoded.rows, Instr.row]
  | e op =>
    unfold decodeE
    split
    all_goals simp_all [tableHigh, admits_opNn, admits_op, admits_lowNibble, Decoded.rows, Instr.row]
  | ldI op | jpV0 op | rnd op | drw op =>
    simp [tableHigh, admits_opNn, admits_op, admits_lowNibble, op, Decoded.rows, Instr.row]
  | zero op | jp op | call op | seImm op | sneImm op | seReg op | ldImm op | addImm op | eight op | f op => omega

theorem filter_tableEight_rows (op : opField w = 8) : tableEight.filter (·.admits w) = (decode d w).rows d := by
  simp only [decode, op]
  unfold decodeEight
  split
  all_goals simp_all [tableEight, admits_opN, Decoded.rows, Instr.row]

theorem filter_tableF_rows (op : opField w = 15) : tableF.filter (·.admits w) = (decode d w).rows d := by
  simp only [decode, op]
  unfold decodeF
  split
  all_goals simp_all [tableF, admits_opNn, Decoded.rows, Instr.row]

end Filter

/-- Settles O5: each of the table's four parts speaks of its own families, and there row by row as the decoder does. -/
theorem decoderAgreesWithTheTable : Obligations.DecoderAgreesWithTheTable := by
  intro d w
  have hlt : opField w < 16 := BitVec.isLt _
  have parts : (opcodeTable d).filter (·.admits w) = (tableLow d).filter (·.admits w) ++ tableEight.filter (·.admits w) ++
      (tableHigh d).filter (·.admits w) ++ tableF.filter (·.admits w) := by simp [opcodeTable]
  suffices h : (opcodeTable d).filter (·.admits w) = (decode d w).rows d from h
  rw [parts]
  by_cases low : opField w < 8
  · rw [filter_tableLow_rows low, filter_tableEight (by omega), filter_tableHigh (by omega), filter_tableF (by omega)]
    simp
  rw [filter_tableLow (by omega)]
  by_cases eight : opField w = 8
  · rw [filter_tableEight_rows (d := d) eight, filter_tableHigh (by omega), filter_tableF (by omega)]
    simp
  rw [filter_tableEight eight]
  by_cases high : opField w < 15
  · rw [filter_tableHigh_rows (by omega) high, filter_tableF (by omega)]
    simp
  · have f : opField w = 15 := by omega
    rw [filter_tableHigh (.inr f), filter_tableF_rows (d := d) f]
    simp

end Sys2Proof

/-! Fetch errors and unknown words, the turns of the core, the frame driver and the host, and a tick as its quota of steps
(R80 to R82, R223, R232 to R235). -/

namespace Sys2Proof.Machine

/-! ### Fetch and execute -/

theorem onlyPc_setPc (s : State) (a : Word) : OnlyPc s (s.setPc a) := by
  simp [OnlyPc, SameRegs, SameMem, SameTimers, SameDisplay, State.getV, State.readByte]

/-- Settles O8: within memory a fetch joins the bytes at PC and PC + 1; else the first byte outside raises. -/
theorem fetchReadsTwoBytesBigEndian : Obligations.FetchReadsTwoBytesBigEndian := by
  intro s
  rcases fetch_cases s with ⟨h, e⟩ | ⟨h, e⟩ | ⟨h, e⟩
  · exact ⟨fun _ => ⟨_, _, e, joinBytes_toNat .., toNat_add_two h, onlyPc_setPc ..⟩, by omega, by omega⟩
  · exact ⟨by omega, fun _ => e, by omega⟩
  · exact ⟨by omega, by omega, fun _ => e⟩

/-- A fetch that leaves memory raises OutOfBounds of the first address outside: PC itself, or 4096 (R226). -/
theorem fetch_error {s : State} (h : 4095 ≤ s.pc.toNat) : fetch s = .error (.outOfBounds (max s.pc.toNat 4096)) := by
  rcases fetch_cases s with ⟨h', -⟩ | ⟨h', e⟩ | ⟨h', e⟩
  · omega
  · rw [e, h']; rfl
  · rw [e, Nat.max_eq_left h']

theorem cycle_of_fetch_error {s : State} {e : RunError} (h : fetch s = .error e) :
    cycle s = .next (raiseFetch e s.pc s) := by
  simp [cycle, h]

theorem cycle_of_instr {s : State} {i : Instr} (hpc : s.pc.toNat ≤ 4094)
    (hi : decode s.cfg.decode59 s.fetchWord = .instr i) : cycle s = exec i (s.setPc (s.pc + 2)) := by
  simp [cycle, fetch_of_pc_le hpc, execute, hi]

theorem cycle_of_unknown {s : State} {c : UnknownClass} (hpc : s.pc.toNat ≤ 4094)
    (hc : decode s.cfg.decode59 s.fetchWord = .unknown c) :
    cycle s = .next (raiseExecute .unknownOpcode s.fetchWord (s.setPc (s.pc + 2))) := by
  simp [cycle, fetch_of_pc_le hpc, execute, hc]

/-- Settles O10: an unknown word is dispatched as UnknownOpcode under its own policy. -/
theorem unknownWordIsReported : Obligations.UnknownWordIsReported := by
  intro s w c hc
  have he : execute w s = .next (raiseExecute .unknownOpcode w s) := by simp [execute, hc]
  exact ⟨_, he, dispatch_taken ..⟩

/-! ### Turns of the core and of the frame driver -/

theorem step_of_no_turns {s : State} (h : s.turns = []) : step s = coreTurn s := by
  simp [step, nextTurn, h]

theorem step_of_core_turn {s : State} (h : s.turns = [] ∨ ∃ rest, s.turns = .instr :: rest) :
    step s = coreTurn { s with turns := s.turns.tail } := by
  rcases h with h | ⟨rest, h⟩
  · cases s; cases h; rfl
  · simp [step, nextTurn, h]

theorem coreTurn_of_running {s : State} (h : s.runState = .running) :
    coreTurn s = andThen (cycle (takeFromQuota (closeTick s))) (fun t => .next (settle t)) := by
  simp [coreTurn, h]

theorem coreTurn_of_not_running {s : State} (h : s.runState ≠ .running) : coreTurn s = .next { s with tickLeft := none } := by
  rcases coreTurn_cases s with ⟨h', -⟩ | ⟨-, e⟩
  · exact absurd h' h
  · exact e

theorem frameTurn_of_not_running {s : State} (h : s.runState ≠ .running) : frameTurn s = { s with tickLeft := none } := by
  rcases frameTurn_cases s with ⟨h', -⟩ | ⟨-, e⟩
  · exact absurd h' h
  · exact e

theorem settle_of_not_running {s : State} (h : s.runState ≠ .running) : settle s = { s with tickLeft := none } := by
  rcases settle_cases s with ⟨h', -⟩ | ⟨-, e⟩
  · exact absurd h' h
  · exact e

theorem tick_of_not_running {s : State} (h : s.runState ≠ .running) : tick s = .next s := by
  unfold tick
  split
  · next h' => exact absurd h' h
  all_goals rfl

/-- Settles O11: the turns of the core and of the frame driver, and Tick(), test the run state first. -/
theorem noStepOutsideRunning : Obligations.NoStepOutsideRunning := by
  intro s h
  refine ⟨fun hturns => ?_, fun rest hturns => ?_, tick_of_not_running h⟩
  · rw [step_of_no_turns hturns, coreTurn_of_not_running h]
  · rcases hturns with hturns | hturns
    · simp [step, nextTurn, hturns, coreTurn_of_not_running (s := { s with turns := rest }) h]
    · simp [step, nextTurn, hturns, frameTurn_of_not_running (s := { s with turns := rest }) h]

section CloseTick

variable (s : State)

@[simp] theorem closeTick_pc : (closeTick s).pc = s.pc := by
  unfold closeTick; split <;> rfl

@[simp] theorem closeTick_cfg : (closeTick s).cfg = s.cfg := by
  unfold closeTick; split <;> rfl

@[simp] theorem closeTick_fetchWord : (closeTick s).fetchWord = s.fetchWord := by
  unfold closeTick; split <;> rfl

end CloseTick

theorem closeTick_of_not_due {s : State} (h : s.tickLeft ≠ some 0) : closeTick s = s := by
  simp [closeTick, h]

/-- The bookkeeping before a cycle leaves PC, memory and configuration alone, so the cycle decodes the same word. -/
theorem coreTurn_of_instr {s : State} {i : Instr} (hrun : s.runState = .running) (hpc : s.pc.toNat ≤ 4094)
    (hi : decode s.cfg.decode59 s.fetchWord = .instr i) :
    coreTurn s = andThen (exec i ((takeFromQuota (closeTick s)).setPc (s.pc + 2))) (fun t => .next (settle t)) := by
  have hpc' : (takeFromQuota (closeTick s)).pc = s.pc := closeTick_pc s
  have hcfg : (takeFromQuota (closeTick s)).cfg = s.cfg := closeTick_cfg s
  have hword : (takeFromQuota (closeTick s)).fetchWord = s.fetchWord := closeTick_fetchWord s
  rw [coreTurn_of_running hrun, cycle_of_instr (by rwa [hpc']) (by rwa [hcfg, hword]), hpc']

/-- Settles O7: the plan gives the core the turn, which in a Running block is a cycle of the decoded word. -/
theorem stepRunsTheDecodedInstruction : Obligations.StepRunsTheDecodedInstruction := by
  intro s i hrun hturns hpc hi
  rw [step_of_core_turn hturns]
  exact coreTurn_of_instr (s := { s with turns := s.turns.tail }) hrun hpc hi

/-- With no turn planned and no boundary due, a step of a Running block is a cycle, settled afterwards (R82, R232). -/
theorem step_of_not_due {s : State} (hturns : s.turns = []) (hrun : s.runState = .running) (hdue : s.tickLeft ≠ some 0) :
    step s = andThen (cycle (takeFromQuota s)) (fun t => .next (settle t)) := by
  rw [step_of_no_turns hturns, coreTurn_of_running hrun, closeTick_of_not_due hdue]

/-- Settles O9: the fetch error is dispatched under halt, and settling a Faulted block ends its quota without a boundary. -/
theorem fetchErrorHaltsTheBlock : Obligations.FetchErrorHaltsTheBlock := by
  intro s hrun hturns hdue hpc
  have hstep : step s = .next (raiseFetch (.outOfBounds (max s.pc.toNat 4096)) s.pc { s with tickLeft := none }) := by
    rw [step_of_not_due hturns hrun hdue, cycle_of_fetch_error (fetch_error (s := takeFromQuota s) hpc)]
    rfl
  exact ⟨_, hstep, rfl, dispatch_taken ..⟩

/-! ### The host's turns -/

/-- R234 gives an interaction its move, or the model refuses it by name. -/
theorem hostTurn_next_or_noMove (e : HostEvent) (s : State) :
    (∃ t, hostTurn e s = .next t) ∨ hostTurn e s = .refused (.noMove e s.runState) := by
  cases e with
  | stop | setKey | snapshot => exact .inl ⟨_, rfl⟩
  | load => cases h : s.runState <;> simp [hostTurn, h]
  | pauseToggle => cases h : s.runState <;> simp [hostTurn, h]
  | run =>
    cases h : s.runState with
    | stopped => cases hl : s.loaded <;> simp [hostTurn, h, hl]
    | running | paused | faulted => simp [hostTurn, h]

theorem cycle_next (s : State) : ∃ t, cycle s = .next t := by
  rcases cycle_cases s with ⟨a, -, -, e⟩ | ⟨i, -, -, e⟩ | ⟨c, -, -, e⟩
  · exact ⟨_, e⟩
  · obtain ⟨t, ht, -⟩ := exec_endsAllOrNothing i (s.setPc (s.pc + 2))
    exact ⟨t, e.trans ht⟩
  · exact ⟨_, e⟩

theorem coreTurn_next (s : State) : ∃ t, coreTurn s = .next t := by
  rcases coreTurn_cases s with ⟨-, e⟩ | ⟨-, e⟩
  · obtain ⟨t, ht⟩ := cycle_next (takeFromQuota (closeTick s))
    exact ⟨settle t, by rw [e, ht, andThen_next]⟩
  · exact ⟨_, e⟩

/-- Settles O12: a turn of the core ends as its cycle does, which always completes; the frame driver's is total. -/
theorem onlyTheHostCanHaveNoMove : Obligations.OnlyTheHostCanHaveNoMove := by
  intro s
  rcases step_cases s with ⟨-, e⟩ | ⟨rest, -, e⟩ | ⟨rest, -, e⟩ | ⟨ev, rest, hev, e⟩
  · exact .inl (e ▸ coreTurn_next s)
  · exact .inl (e ▸ coreTurn_next _)
  · exact .inl ⟨_, e⟩
  · rcases hostTurn_next_or_noMove ev { s with turns := rest } with ⟨t, ht⟩ | hno
    · exact .inl ⟨t, e.trans ht⟩
    · exact .inr ⟨ev, rest, hev, e.trans hno⟩

/-! ### The quota counter is no instruction's to read or write -/

/-- The state with k instructions left in the running tick, or with none running (Log 9). -/
def State.withTick (k : Option Nat) (s : State) : State := { s with tickLeft := k }

section WithTick

variable (k : Option Nat) (s : State)

@[simp] theorem State.withTick_tickLeft : (s.withTick k).tickLeft = k := rfl
@[simp] theorem State.withTick_turns : (s.withTick k).turns = s.turns := rfl
@[simp] theorem State.withTick_runState : (s.withTick k).runState = s.runState := rfl

@[simp] theorem skipIf_withTick (c : Bool) : (s.withTick k).skipIf c = (s.skipIf c).withTick k := by cases c <;> rfl

theorem advanceI_withTick (x : Reg) : (s.withTick k).advanceI x = (s.advanceI x).withTick k := by
  unfold State.advanceI
  rw [show (s.withTick k).cfg = s.cfg from rfl]
  split <;> rfl

theorem dispatch_withTick (p : ErrorPolicy) (e : RunError) (ia : Word) (w : Option Word) :
    dispatch p e ia w (s.withTick k) = (dispatch p e ia w s).withTick k := by cases p <;> rfl

/-- A body that does not look at the counter concludes as it does without it. -/
theorem conclude_withTick {k : Option Nat} {s : State} {body : State → Except RunError State}
    (h : body (s.withTick k) = (body s).map (State.withTick k)) (w : Word) :
    conclude w (s.withTick k) (body (s.withTick k)) = andThen (conclude w s (body s)) (fun t => .next (t.withTick k)) := by
  rw [h]
  cases body s with
  | ok t => rfl
  | error e => exact congrArg Host.Outcome.next (dispatch_withTick k s ..)

theorem returnFrom_withTick : returnFrom (s.withTick k) = (returnFrom s).map (State.withTick k) := by
  unfold returnFrom State.pop
  rw [show (s.withTick k).stack = s.stack from rfl, show (s.withTick k).cfg = s.cfg from rfl]
  cases s.stack.getLast? with
  | none => cases s.cfg.retEmptyPolicy <;> rfl
  | some a => rfl

theorem callTo_withTick (nnn : Addr) : callTo nnn (s.withTick k) = (callTo nnn s).map (State.withTick k) := by
  unfold callTo State.push
  rw [show (s.withTick k).stackFull = s.stackFull from rfl]
  cases s.stackFull <;> rfl

theorem drawBody_withTick (x y : Reg) (n : Fin 16) :
    drawBody x y n (s.withTick k) = (drawBody x y n s).map (State.withTick k) := by
  unfold drawBody
  rw [show (s.withTick k).element 0 = s.element 0 from rfl]
  cases spanFits (s.element 0) n.val <;> rfl

theorem skipPressed_withTick (x : Reg) : skipPressed x (s.withTick k) = (skipPressed x s).map (State.withTick k) := by
  unfold skipPressed
  rw [show (s.withTick k).getV x = s.getV x from rfl]
  cases keyIndex (s.getV x) with
  | ok key => exact congrArg Except.ok (skipIf_withTick k s _)
  | error e => rfl

theorem skipReleased_withTick (x : Reg) : skipReleased x (s.withTick k) = (skipReleased x s).map (State.withTick k) := by
  unfold skipReleased
  rw [show (s.withTick k).getV x = s.getV x from rfl]
  cases keyIndex (s.getV x) with
  | ok key => exact congrArg Except.ok (skipIf_withTick k s _)
  | error e => rfl

theorem bcdBody_withTick (x : Reg) : bcdBody x (s.withTick k) = (bcdBody x s).map (State.withTick k) := by
  unfold bcdBody
  rw [show (s.withTick k).element 0 = s.element 0 from rfl]
  cases spanFits (s.element 0) 3 <;> rfl

theorem storeBody_withTick (x : Reg) : storeBody x (s.withTick k) = (storeBody x s).map (State.withTick k) := by
  unfold storeBody
  rw [show (s.withTick k).element 0 = s.element 0 from rfl]
  cases spanFits (s.element 0) (x.val + 1) with
  | false => rfl
  | true => exact congrArg Except.ok (advanceI_withTick k (s.writeBytes _ _) x)

theorem loadBody_withTick (x : Reg) : loadBody x (s.withTick k) = (loadBody x s).map (State.withTick k) := by
  unfold loadBody
  rw [show (s.withTick k).element 0 = s.element 0 from rfl]
  cases spanFits (s.element 0) (x.val + 1) with
  | false => rfl
  | true => exact congrArg Except.ok (advanceI_withTick k { s with v := s.loadedRegs x } x)

theorem pollKey_withTick (choice : Nat) (x : Reg) : pollKey choice x (s.withTick k) = (pollKey choice x s).withTick k := by
  unfold pollKey
  rw [show (s.withTick k).pressed = s.pressed from rfl]
  cases pickKey choice s.pressed <;> rfl

/-- An instruction ends alike, the counter apart, whatever the counter holds. -/
theorem exec_withTick (i : Instr) : exec i (s.withTick k) = andThen (exec i s) (fun t => .next (t.withTick k)) := by
  cases i with
  | ret => exact conclude_withTick (returnFrom_withTick k s) _
  | call nnn => exact conclude_withTick (callTo_withTick k s nnn) _
  | drw x y n => exact conclude_withTick (drawBody_withTick k s x y n) _
  | skp x => exact conclude_withTick (skipPressed_withTick k s x) _
  | sknp x => exact conclude_withTick (skipReleased_withTick k s x) _
  | ldBVx x => exact conclude_withTick (bcdBody_withTick k s x) _
  | ldMemIVx x => exact conclude_withTick (storeBody_withTick k s x) _
  | ldVxMemI x => exact conclude_withTick (loadBody_withTick k s x) _
  | ldVxK x => exact congrArg Host.Outcome.next (pollKey_withTick k s _ x)
  | seImm | sneImm | seReg | sneReg => exact congrArg Host.Outcome.next (skipIf_withTick k s _)
  | cls | jp | jpV0 | ldImm | addImm | ldReg | orReg | andReg | xorReg | addReg | sub | subn | shr | shl | rnd | ldI | addIVx
  | ldFVx | ldVxDT | ldDTVx | ldSTVx => rfl

/-- A cycle ends alike, the counter apart, whatever the counter holds (R82). -/
theorem cycle_withTick : cycle (s.withTick k) = andThen (cycle s) (fun t => .next (t.withTick k)) := by
  by_cases hpc : s.pc.toNat ≤ 4094
  · cases hd : decode s.cfg.decode59 s.fetchWord with
    | instr i =>
      rw [cycle_of_instr hpc hd, cycle_of_instr (s := s.withTick k) hpc hd]
      exact exec_withTick k (s.setPc (s.pc + 2)) i
    | unknown c =>
      rw [cycle_of_unknown hpc hd, cycle_of_unknown (s := s.withTick k) hpc hd]
      exact congrArg Host.Outcome.next (dispatch_withTick k (s.setPc (s.pc + 2)) ..)
  · have hout : 4095 ≤ s.pc.toNat := by omega
    rw [cycle_of_fetch_error (fetch_error hout), cycle_of_fetch_error (fetch_error (s := s.withTick k) hout)]
    exact congrArg Host.Outcome.next (dispatch_withTick k s ..)

end WithTick

/-! ### A tick as its quota of steps -/

/-- A block between ticks with no turn planned: what a tick finds at its beginning and each cycle in it keeps (Logs 8, 9). -/
structure State.Undisturbed (s : State) : Prop where
  turns : s.turns = []
  tickLeft : s.tickLeft = none

namespace State.Undisturbed

variable {s t : State}

theorem of_dispatch (h : s.Undisturbed) (p : ErrorPolicy) (e : RunError) (ia : Word) (w : Option Word) :
    (dispatch p e ia w s).Undisturbed := by
  rcases dispatch_eq p e ia w s with ⟨-, hd⟩ | ⟨-, hd⟩
  · exact hd ▸ ⟨h.turns, h.tickLeft⟩
  · exact hd ▸ ⟨h.turns, h.tickLeft⟩

theorem of_exec (h : s.Undisturbed) {i : Instr} (ht : exec i s = .next t) : t.Undisturbed := by
  rcases exec_next_cases ht with ⟨-, -, -, -, -, -, -, htick, -, hturns⟩ | ⟨e, -, rfl⟩
  · exact ⟨hturns.trans h.turns, htick.trans h.tickLeft⟩
  · exact h.of_dispatch ..

theorem of_cycle (h : s.Undisturbed) (ht : cycle s = .next t) : t.Undisturbed := by
  have fetched : (s.setPc (s.pc + 2)).Undisturbed := ⟨h.turns, h.tickLeft⟩
  rcases cycle_cases s with ⟨a, -, -, e⟩ | ⟨i, -, -, e⟩ | ⟨c, -, -, e⟩
  · cases e.symm.trans ht
    exact h.of_dispatch ..
  · exact fetched.of_exec (e ▸ ht)
  · cases e.symm.trans ht
    exact fetched.of_dispatch ..

theorem withTick_none (h : s.Undisturbed) : s.withTick none = s := by
  rw [← h.tickLeft]; rfl

end State.Undisturbed

/-- The end of a tick whose quota is used up or was ended by a halt (R232). -/
def endQuota (s : State) : State := if s.runState = .running then tickBoundary s else s

section Quota

variable {s t : State} {n : Nat}

theorem tick_of_running (h : s.runState = .running) :
    tick s = andThen (quotaLoop s.cfg.ipt s) (fun t => .next (endQuota t)) := by
  simp only [tick, h]
  congr 1
  funext t
  unfold endQuota
  cases t.runState <;> rfl

theorem quotaLoop_of_running (h : s.runState = .running) : quotaLoop (n + 1) s = andThen (cycle s) (quotaLoop n) := by
  simp only [quotaLoop, h]

theorem quotaLoop_of_not_running (h : s.runState ≠ .running) : quotaLoop n s = .next s := by
  cases n with
  | zero => rfl
  | succ n =>
    unfold quotaLoop
    split
    · next h' => exact absurd h' h
    all_goals rfl

theorem run_of_not_running (hs : s.Undisturbed) (h : s.runState ≠ .running) : Host.Core.run Sys2Proof.core n s = .next s := by
  induction n with
  | zero => rfl
  | succ n ih =>
    have hstep : step s = .next (s.withTick none) := by
      rw [step_of_no_turns hs.turns, coreTurn_of_not_running h]; rfl
    rw [run_step hstep, hs.withTick_none, ih]

/-- A step inside a tick is the cycle, settled with what it leaves of the quota. -/
theorem step_of_quota {u : State} (hturns : u.turns = []) (hrun : u.runState = .running) (hdue : u.tickLeft ≠ some 0)
    (quota : takeFromQuota u = s.withTick (some n)) (ht : cycle s = .next t) :
    step u = .next (settle (t.withTick (some n))) := by
  rw [step_of_not_due hturns hrun hdue, quota, cycle_withTick, ht, andThen_next, andThen_next]

theorem step_withTick (hs : s.Undisturbed) (hrun : s.runState = .running) (ht : cycle s = .next t) :
    step (s.withTick (some (n + 1))) = .next (settle (t.withTick (some n))) :=
  step_of_quota (s := s) (u := s.withTick _) hs.turns hrun (by simp) rfl ht

/-- The first step of a tick takes its instruction from a quota of IPT. -/
theorem step_at_tick_beginning (hs : s.Undisturbed) (hrun : s.runState = .running) (hipt : s.cfg.ipt = n + 1)
    (ht : cycle s = .next t) : step s = .next (settle (t.withTick (some n))) := by
  have quota : takeFromQuota s = s.withTick (some n) := by simp [takeFromQuota, State.withTick, hs.tickLeft, hipt]
  exact step_of_quota hs.turns hrun (by simp [hs.tickLeft]) quota ht

@[simp] theorem tickBoundary_withTick (s : State) (k : Option Nat) : tickBoundary (s.withTick k) = tickBoundary s := rfl

theorem settle_withTick_of_not_running (hs : s.Undisturbed) (h : s.runState ≠ .running) (k : Option Nat) :
    settle (s.withTick k) = s :=
  (settle_of_not_running (s := s.withTick k) h).trans hs.withTick_none

theorem settle_withTick_zero (hs : s.Undisturbed) : settle (s.withTick (some 0)) = endQuota s := by
  by_cases h : s.runState = .running
  · simp [settle, h, hs.turns, closeTick, endQuota]
  · rw [settle_withTick_of_not_running hs h, endQuota, if_neg h]

theorem settle_withTick_succ (hs : s.Undisturbed) (h : s.runState = .running) :
    settle (s.withTick (some (n + 1))) = s.withTick (some (n + 1)) := by
  simp [settle, h, hs.turns, closeTick]

/-- Undisturbed steps, as many as the quota has left, are the loop of R232 and the end of its tick. -/
theorem run_withTick (hs : s.Undisturbed) (h : s.runState = .running) :
    Host.Core.run Sys2Proof.core (n + 1) (s.withTick (some (n + 1))) =
      andThen (quotaLoop (n + 1) s) (fun t => .next (endQuota t)) := by
  induction n generalizing s with
  | zero =>
    obtain ⟨t, ht⟩ := cycle_next s
    rw [run_step (step_withTick hs h ht), settle_withTick_zero (hs.of_cycle ht), quotaLoop_of_running h, ht]
    rfl
  | succ n ih =>
    obtain ⟨t, ht⟩ := cycle_next s
    have hu := hs.of_cycle ht
    rw [run_step (step_withTick hs h ht), quotaLoop_of_running h, ht, andThen_next]
    by_cases hrun : t.runState = .running
    · rw [settle_withTick_succ hu hrun, ih hu hrun]
    · rw [settle_withTick_of_not_running hu hrun, run_of_not_running hu hrun, quotaLoop_of_not_running hrun, andThen_next,
        endQuota, if_neg hrun]
      rfl

end Quota

/-- Settles O54: the machine's steps keep the loop counter in a field that no cycle looks at, so IPT of them are the loop of
Tick(); a halt ends both. -/
theorem tickIsItsQuotaOfSteps : Obligations.TickIsItsQuotaOfSteps := by
  intro s hwf hrun htick hturns
  obtain ⟨-, hpos⟩ := hwf
  obtain ⟨n, hipt⟩ := Nat.exists_eq_add_one.mpr hpos
  have hs : s.Undisturbed := ⟨hturns, htick⟩
  obtain ⟨t, ht⟩ := cycle_next s
  rw [tick_of_running hrun, hipt, ← run_withTick hs hrun, run_step (step_at_tick_beginning hs hrun hipt ht),
    run_step (step_withTick hs hrun ht)]

end Sys2Proof.Machine

/-! The display instructions: 00E0 blanks the grid, Dxyn flips the pixels its sprite covers and reports the collision, or
raises from the state before it (R100 to R106). -/

namespace Sys2Proof.Machine

/-! ### 00E0 -/

/-- Settles O31: the result is the state with a blank display set, which fires draw_flag and changes nothing else. -/
theorem clearBlanksTheDisplay : Obligations.ClearBlanksTheDisplay := fun s =>
  ⟨by decide, s.setDisp Display.blank, rfl, Display.pixel_blank, rfl, fun _ => rfl, fun _ => rfl, rfl, rfl, rfl, ⟨rfl, rfl⟩,
    rfl, by simp⟩

/-! ### A completing Dxyn -/

/-- The display and the collision output of Dxyn's blit (R103). -/
def State.blit (s : State) (x y : Reg) (n : Fin 16) : Display × Bool :=
  drawSprite s.disp (s.getV x).toNat (s.getV y).toNat (s.span n.val)

/-- The state a completing Dxyn ends in (R103). -/
def State.drawn (s : State) (x y : Reg) (n : Fin 16) : State :=
  (s.setDisp (s.blit x y n).1).setFlag (flagByte (s.blit x y n).2)

section Drawing

variable {s : State} {x y : Reg} {n : Fin 16} {r : Fin 32} {c : Fin 64}

theorem exec_drw_of_fits (h : n.val = 0 ∨ s.i.toNat + n.val ≤ 4096) : exec (.drw x y n) s = .next (s.drawn x y n) := by
  rcases drawBody_cases x y n s with ⟨-, d, b, hdrawn, hbody⟩ | ⟨hout, -⟩
  · have hblit : (d, b) = s.blit x y n := hdrawn
    rw [State.drawn, ← hblit]
    exact congrArg (conclude _ s) hbody
  · exact absurd ((spanFits_iff ..).mpr h) (Bool.not_eq_true _ ▸ hout)

theorem exec_drw_of_not_fits (h : ¬ (n.val = 0 ∨ s.i.toNat + n.val ≤ 4096)) :
    exec (.drw x y n) s = .next (raiseExecute (.outOfBounds (max s.i.toNat 4096)) (encode (.drw x y n)) s) := by
  rcases drawBody_cases x y n s with ⟨hfits, -⟩ | ⟨-, hbody⟩
  · exact absurd ((spanFits_iff ..).mp hfits) h
  · exact congrArg (conclude _ s) hbody

/-- The sprite bits at I cover a pixel exactly when the rows that Dxyn reads do. -/
theorem spriteCovers_iff_rowsCover : SpriteCovers s x y n r c ↔
    rowsCover (s.getV x).toNat r c (s.getV y).toNat (s.span n.val) = true := by
  simp only [rowsCover_iff, SpriteCovers, span_length, span_getElem, spriteBit, exists_prop]

/-- Each set sprite bit covers the pixel at its place mod 32 and mod 64, so the blit collides exactly where a covered pixel
was 1 (R100, R104). -/
theorem blit_collision_iff : (s.blit x y n).2 = true ↔ ∃ r c, SpriteCovers s x y n r c ∧ s.disp.pixel r c = true := by
  have short : (s.span n.val).length ≤ 32 := by rw [span_length]; omega
  simp only [State.blit, drawSprite_collision _ _ _ _ short, span_length, span_getElem, spriteBit, exists_prop]
  constructor
  · rintro ⟨k, hk, col, hcol, hbit, hpixel⟩
    exact ⟨_, _, ⟨k, hk, col, hcol, rfl, rfl, hbit⟩, hpixel⟩
  · rintro ⟨r, c, ⟨k, hk, col, hcol, hr, hc, hbit⟩, hpixel⟩
    obtain rfl : Fin.ofNat 32 ((s.getV y).toNat + k) = r := Fin.ext hr
    obtain rfl : Fin.ofNat 64 ((s.getV x).toNat + col) = c := Fin.ext hc
    exact ⟨k, hk, col, hcol, hbit, hpixel⟩

theorem pixel_drawn : (s.drawn x y n).disp.pixel r c =
    (s.disp.pixel r c ^^ rowsCover (s.getV x).toNat r c (s.getV y).toNat (s.span n.val)) :=
  drawSprite_pixel _ _ _ _ r c (by rw [span_length]; omega)

theorem pixel_drawn_of_covers (h : SpriteCovers s x y n r c) : (s.drawn x y n).disp.pixel r c = !s.disp.pixel r c := by
  rw [pixel_drawn, spriteCovers_iff_rowsCover.mp h, Bool.xor_true]

theorem pixel_drawn_of_not_covers (h : ¬ SpriteCovers s x y n r c) :
    (s.drawn x y n).disp.pixel r c = s.disp.pixel r c := by
  rw [pixel_drawn, Bool.eq_false_of_not_eq_true (mt spriteCovers_iff_rowsCover.mpr h), Bool.xor_false]

theorem getV_drawn_vF : (s.drawn x y n).getV vF = flagByte (s.blit x y n).2 := State.getV_setFlag_vF _ _

/-- VF tells whether a covered pixel was 1 (R104). -/
theorem getV_drawn_vF_eq_one_iff :
    (s.drawn x y n).getV vF = 1 ↔ ∃ r c, SpriteCovers s x y n r c ∧ s.disp.pixel r c = true := by
  rw [getV_drawn_vF, ← blit_collision_iff]
  cases (s.blit x y n).2 <;> decide

theorem getV_drawn_of_ne {r : Reg} (h : r ≠ vF) : (s.drawn x y n).getV r = s.getV r := State.getV_setFlag_ne _ _ h

/-- A draw leaves the sprite and its origin where they were, unless VF is an origin register (R106). -/
theorem spriteCovers_drawn_iff (hx : x ≠ vF) (hy : y ≠ vF) :
    SpriteCovers (s.drawn x y n) x y n r c ↔ SpriteCovers s x y n r c := by
  unfold SpriteCovers
  rw [getV_drawn_of_ne hx, getV_drawn_of_ne hy]
  rfl

end Drawing

/-- Settles O32: a completing Dxyn ends in the blit of its sprite, and all else it changes is VF and draw_flag. -/
theorem drawFlipsCoveredPixels : Obligations.DrawFlipsCoveredPixels := by
  intro s x y n h
  refine ⟨s.drawn x y n, exec_drw_of_fits h, fun _ _ => pixel_drawn_of_covers, fun _ _ => pixel_drawn_of_not_covers,
    getV_drawn_vF_eq_one_iff.mpr, fun none => ?_, rfl, fun _ => getV_drawn_of_ne, fun _ => rfl, rfl, rfl, rfl, ⟨rfl, rfl⟩, rfl,
    by simp [State.drawn]⟩
  rw [getV_drawn_vF, Bool.eq_false_of_not_eq_true (mt blit_collision_iff.mp none)]
  rfl

/-- Settles O33: the rows do not fit, so the error is dispatched from the state before the draw under ERROR_POLICY. -/
theorem drawBeyondMemoryRaises : Obligations.DrawBeyondMemoryRaises := by
  intro s x y n hn hout
  exact ⟨_, exec_drw_of_not_fits (by omega), dispatch_taken ..⟩

/-- Settles O34: the second draw covers the same pixels and flips each of them back; those it finds at 1 are those that
were 0 before the first. -/
theorem drawingTwiceRestores : Obligations.DrawingTwiceRestores := by
  intro s x y n h hx hy
  refine ⟨s.drawn x y n, (s.drawn x y n).drawn x y n, exec_drw_of_fits h, exec_drw_of_fits h, fun r c => ?_, ?_⟩
  · by_cases hc : SpriteCovers s x y n r c
    · rw [pixel_drawn_of_covers ((spriteCovers_drawn_iff hx hy).mpr hc), pixel_drawn_of_covers hc, Bool.not_not]
    · rw [pixel_drawn_of_not_covers (mt (spriteCovers_drawn_iff hx hy).mp hc), pixel_drawn_of_not_covers hc]
  · rw [getV_drawn_vF_eq_one_iff]
    refine exists_congr fun r => exists_congr fun c => ?_
    rw [spriteCovers_drawn_iff hx hy]
    refine and_congr_right fun hc => ?_
    rw [pixel_drawn_of_covers hc, Bool.not_eq_true']

end Sys2Proof.Machine

/-! Control transfer and skips: jumps, calls and returns, what a skip does, and the two ends of a run that last
(R120 to R130, R195, R270). -/

namespace Sys2Proof.Machine

/-! ### Jumps -/

/-- An address field keeps its value as a PC (R73). -/
theorem zextAddr_toNat (nnn : Addr) : (zextAddr nnn).toNat = nnn.toNat :=
  BitVec.toNat_setWidth_of_le (by decide)

/-- Settles O23: no address is above 4095, so the fetch that leaves memory reports 4096. -/
theorem jumpSetsPc : Obligations.JumpSetsPc := by
  intro s nnn
  refine ⟨formNNN_toNat 1 nnn, _, rfl, zextAddr_toNat nnn, onlyPc_setPc .., fun htop => ?_⟩
  have hpc : (s.setPc (zextAddr nnn)).pc.toNat = 4095 :=
    le_antisymm (zextAddr_toNat_le nnn) (htop.trans_eq (zextAddr_toNat nnn).symm)
  rw [fetch_error hpc.ge, hpc]
  rfl

/-- The sum of Bnnn is at most 0x10FE, so 16 bits hold it exactly (R127). -/
theorem jpV0_target_toNat (nnn : Addr) (b : Byte) : (zextAddr nnn + zextByte b).toNat = nnn.toNat + b.toNat := by
  have hb : (zextByte b).toNat = b.toNat := BitVec.toNat_setWidth_of_le (by decide)
  rw [BitVec.toNat_add, hb, zextAddr_toNat]
  omega

/-- Settles O24: the target is the 16-bit sum, which cannot wrap. -/
theorem jumpWithOffsetIsNotWrapped : Obligations.JumpWithOffsetIsNotWrapped := fun s nnn =>
  ⟨_, rfl, jpV0_target_toNat nnn (s.getV 0), onlyPc_setPc ..⟩

/-! ### Calls and returns -/

/-- The state in which 2nnn completes: the return address on top of the stack, PC at the target (R122). -/
def State.called (s : State) (nnn : Addr) : State := (s.setStack (s.stack ++ [s.pc])).setPc (zextAddr nnn)

section Calls

variable {s : State} {nnn : Addr}

theorem onlyPcAndStack_setStack_setPc (s : State) (l : List Word) (a : Word) :
    OnlyPcAndStack s ((s.setStack l).setPc a) :=
  ⟨fun _ => rfl, fun _ => rfl, rfl, ⟨rfl, rfl⟩, ⟨fun _ _ => rfl, rfl⟩, rfl, sameBlock_refl s⟩

theorem stackFull_iff : s.stackFull = true ↔ s.cfg.stackDepth = some s.stack.length := by
  unfold State.stackFull
  cases s.cfg.stackDepth with
  | none => simp
  | some d => simpa using eq_comm

theorem exec_call_of_room (h : s.cfg.stackDepth ≠ some s.stack.length) : exec (.call nnn) s = .next (s.called nnn) := by
  rcases callTo_cases nnn s with ⟨hfull, -⟩ | ⟨-, e⟩
  · exact absurd (stackFull_iff.mp hfull) h
  · exact congrArg (conclude (encode (.call nnn)) s) e

theorem exec_call_of_full (h : s.cfg.stackDepth = some s.stack.length) :
    exec (.call nnn) s = .next (raiseExecute (.stackOverflow s.pc) (encode (.call nnn)) s) := by
  rcases callTo_cases nnn s with ⟨-, e⟩ | ⟨hroom, -⟩
  · exact congrArg (conclude (encode (.call nnn)) s) e
  · simp [stackFull_iff.mpr h] at hroom

theorem exec_ret_of_append {l : List Word} {a : Word} (h : s.stack = l ++ [a]) :
    exec .ret s = .next ((s.setStack l).setPc a) := by
  have e : returnFrom s = .ok ((s.setStack l).setPc a) := by
    unfold returnFrom
    rw [pop_append h]
  exact congrArg (conclude (encode .ret) s) e

/-- A return right after a call restores the very state before the call (R130). -/
theorem exec_ret_called : exec .ret (s.called nnn) = .next s :=
  exec_ret_of_append (s := s.called nnn) rfl

end Calls

/-- Settles O25: push raises exactly when the stack holds STACK_DEPTH entries, and the error is dispatched from the state
before the call. -/
theorem callPushesOrOverflows : Obligations.CallPushesOrOverflows := by
  refine fun s nnn => ⟨fun hroom => ?_, fun hfull => ?_⟩
  · exact ⟨_, exec_call_of_room hroom, zextAddr_toNat nnn, rfl, onlyPcAndStack_setStack_setPc ..⟩
  · exact ⟨_, exec_call_of_full hfull, dispatch_taken ..⟩

/-- Settles O26: pop gives the entry a and leaves l. -/
theorem returnPopsTheLastEntry : Obligations.ReturnPopsTheLastEntry := fun _ _ _ h =>
  ⟨_, exec_ret_of_append h, rfl, rfl, onlyPcAndStack_setStack_setPc ..⟩

/-- Settles O27: RET_EMPTY_POLICY alone decides what a return does that finds nothing to pop. -/
theorem returnOnAnEmptyStack : Obligations.ReturnOnAnEmptyStack := by
  intro s hempty
  rcases returnFrom_cases s with ⟨l, a, h, -⟩ | ⟨-, hpolicy, e⟩ | ⟨-, hpolicy, e⟩
  · simp [hempty] at h
  · exact ⟨by simp [hpolicy], fun _ => ⟨_, congrArg (conclude (encode .ret) s) e, dispatch_taken ..⟩⟩
  · exact ⟨fun _ => congrArg (conclude (encode .ret) s) e, by simp [hpolicy]⟩

/-! ### Balanced calls and returns -/

/-- The last of n + 1 returns can be taken off the end of the run, where it answers the first call. -/
theorem returnAll_succ (n : Nat) (s : State) : returnAll (n + 1) s = andThen (returnAll n s) (exec .ret) := by
  induction n generalizing s with
  | zero =>
    simp only [returnAll, andThen_next]
    cases exec .ret s <;> rfl
  | succ n ih =>
    rw [returnAll, returnAll]
    cases exec .ret s with
    | next t => exact ih t
    | fault r => rfl
    | refused r => rfl

/-- Calls within the stack's capacity complete, and as many returns lead back to the very state before them (R130). -/
theorem callAll_returnAll (as : List Addr) (s : State)
    (room : ∀ d, s.cfg.stackDepth = some d → s.stack.length + as.length ≤ d) :
    ∃ t, callAll as s = .next t ∧ t.stack.length = s.stack.length + as.length ∧ returnAll as.length t = .next s := by
  induction as generalizing s with
  | nil => exact ⟨s, rfl, rfl, rfl⟩
  | cons a as ih =>
    have pushed : (s.called a).stack.length = s.stack.length + 1 := List.length_append
    have hcall : exec (.call a) s = .next (s.called a) := by
      refine exec_call_of_room fun hfull => ?_
      have := room _ hfull
      simp at this
    obtain ⟨t, hcalls, hlen, hreturns⟩ := ih (s.called a) fun d hd => by
      have := room d hd
      rw [List.length_cons] at this
      omega
    refine ⟨t, ?_, ?_, ?_⟩
    · rw [callAll, hcall, andThen_next, hcalls]
    · rw [hlen, pushed, List.length_cons]; omega
    · rw [List.length_cons, returnAll_succ, hreturns, andThen_next, exec_ret_called]

/-- Settles O30: the returns lead back to the state before the calls, so nothing at all has changed. -/
theorem balancedCallsReturn : Obligations.BalancedCallsReturn := by
  intro as s room
  obtain ⟨t, hcalls, hlen, hreturns⟩ := callAll_returnAll as s room
  exact ⟨t, s, hcalls, hlen, hreturns, rfl, rfl, onlyPcAndStack_setStack_setPc s s.stack s.pc⟩

/-! ### Skips -/

theorem onlyPc_skipIf (s : State) (c : Bool) : OnlyPc s (s.skipIf c) := by
  cases c
  · exact onlyPc_setPc s s.pc
  · exact onlyPc_setPc ..

/-- A skip whose test decides P moves PC exactly when P holds, and changes nothing else (R128). -/
theorem skip_of_test {s : State} {i : Instr} {test : Bool} {P : Prop} [Decidable P]
    (h : exec i s = .next (s.skipIf test)) (htest : test = true ↔ P) :
    ∃ t, exec i s = .next t ∧ t.pc = (if P then s.pc + 2 else s.pc) ∧ OnlyPc s t :=
  ⟨_, h, (s.skipIf_pc test).trans (if_congr htest rfl rfl), onlyPc_skipIf ..⟩

/-- Settles O28: both tests compare Vx with the immediate as bytes. -/
theorem immediateSkips : Obligations.ImmediateSkips := fun _ x nn =>
  ⟨⟨formXNN_toNat 3 x nn, skip_of_test rfl beq_iff_eq⟩, ⟨formXNN_toNat 4 x nn, skip_of_test rfl bne_iff_ne⟩⟩

/-- Settles O29: both tests compare the two registers as bytes. -/
theorem registerSkips : Obligations.RegisterSkips := fun _ _ _ =>
  ⟨skip_of_test rfl beq_iff_eq, skip_of_test rfl bne_iff_ne⟩

/-! ### The ends of a run that last -/

/-- Nothing but what a tick boundary or the quota counter changes: timers, sound gate, draw_flag, replies (R231, Log 9). -/
def OnlyTick (s t : State) : Prop :=
  ∃ dt st drawFlag soundGate tickLeft hostOut, t = { s with dt, st, drawFlag, soundGate, tickLeft, hostOut }

namespace OnlyTick

theorem refl (s : State) : OnlyTick s s := ⟨_, _, _, _, _, _, rfl⟩

theorem trans {s t u : State} (h : OnlyTick s t) (h' : OnlyTick t u) : OnlyTick s u := by
  obtain ⟨_, _, _, _, _, _, rfl⟩ := h
  obtain ⟨_, _, _, _, _, _, rfl⟩ := h'
  exact ⟨_, _, _, _, _, _, rfl⟩

theorem of_closeTick (s : State) : OnlyTick s (closeTick s) := by
  rcases closeTick_cases s with ⟨-, -, e⟩ | ⟨-, e⟩
  · exact ⟨_, _, _, _, _, _, e⟩
  · rw [e]; exact refl s

theorem of_takeFromQuota (s : State) : OnlyTick s (takeFromQuota s) := ⟨_, _, _, _, _, _, rfl⟩

theorem of_settle (s : State) : OnlyTick s (settle s) := by
  rcases settle_cases s with ⟨-, e | e⟩ | ⟨-, e⟩
  · rw [e]; exact of_closeTick s
  · rw [e]; exact refl s
  · exact ⟨_, _, _, _, _, _, e⟩

theorem atEnd {s t : State} {a : Addr} (h : OnlyTick s t) (hend : s.AtEnd a) : t.AtEnd a := by
  obtain ⟨_, _, _, _, _, _, rfl⟩ := h
  exact hend

theorem waitsForKey {s t : State} {x : Reg} (h : OnlyTick s t) (hwait : s.WaitsForKey x) : t.WaitsForKey x := by
  obtain ⟨_, _, _, _, _, _, rfl⟩ := h
  exact hwait

end OnlyTick

section Ends

variable {s : State}

/-- Where a cycle leads back to the state it began in, whatever the tick's bookkeeping holds, a step of the core changes
that bookkeeping only. -/
theorem step_of_idle_cycle (hturns : s.turns = []) (hrun : s.runState = .running)
    (idle : ∀ u, OnlyTick s u → cycle u = .next u) : ∃ t, step s = .next t ∧ OnlyTick s t := by
  have begun : OnlyTick s (takeFromQuota (closeTick s)) := (OnlyTick.of_closeTick s).trans (.of_takeFromQuota _)
  refine ⟨settle (takeFromQuota (closeTick s)), ?_, begun.trans (.of_settle _)⟩
  rw [step_of_no_turns hturns, coreTurn_of_running hrun, idle _ begun, andThen_next]

theorem setPc_setPc_of_eq_pc (a : Word) {b : Word} (h : b = s.pc) : (s.setPc a).setPc b = s := h ▸ rfl

/-- The self-jump undoes the fetch (R121). -/
theorem cycle_of_atEnd {a : Addr} (h : s.AtEnd a) : cycle s = .next s := by
  obtain ⟨-, hpc, hle, hword⟩ := h
  have hfetch : s.pc.toNat ≤ 4094 := by rwa [hpc, zextAddr_toNat]
  rw [cycle_of_instr hfetch (hword ▸ decode_encode ..)]
  exact congrArg Host.Outcome.next (setPc_setPc_of_eq_pc _ hpc.symm)

/-- A poll that finds no key rewinds PC to where the fetch found it (R195). -/
theorem cycle_of_waitsForKey {x : Reg} (h : s.WaitsForKey x) : cycle s = .next s := by
  obtain ⟨-, hfetch, hword, hkeys⟩ := h
  rw [cycle_of_instr hfetch (hword ▸ decode_encode ..)]
  refine congrArg Host.Outcome.next ?_
  rcases pollKey_cases (Config.keyChoice s.draws) x (s.setPc (s.pc + 2)) with ⟨k, hk, -⟩ | ⟨-, e⟩
  · exact absurd hk (by simp [hkeys k])
  · exact e.trans (setPc_setPc_of_eq_pc _ (BitVec.add_sub_cancel ..))

end Ends

/-- Settles O60: at either end a cycle is the identity, so only the tick's bookkeeping around it moves, which neither end
looks at. -/
theorem endsOfARunLast : Obligations.EndsOfARunLast := by
  refine fun s hturns => ⟨fun a hend => ?_, fun x hwait => ?_⟩
  · obtain ⟨t, hstep, htick⟩ := step_of_idle_cycle hturns hend.1 fun u hu => cycle_of_atEnd (hu.atEnd hend)
    have hend' := htick.atEnd hend
    obtain ⟨_, _, _, _, _, _, rfl⟩ := htick
    exact ⟨_, hstep, hend', fun _ => rfl, fun _ => rfl, rfl, rfl, rfl, rfl, hturns⟩
  · obtain ⟨t, hstep, htick⟩ := step_of_idle_cycle hturns hwait.1 fun u hu => cycle_of_waitsForKey (hu.waitsForKey hwait)
    have hwait' := htick.waitsForKey hwait
    obtain ⟨_, _, _, _, _, _, rfl⟩ := htick
    exact ⟨_, hstep, hwait', rfl, fun _ => rfl, fun _ => rfl, rfl, rfl, rfl, rfl, hturns⟩

end Sys2Proof.Machine

/-! Loads, arithmetic, logic, shifts and random: the destination's value, the flag written after it, and the frame
(R140 to R153). -/

namespace Sys2Proof.Machine

/-! ### What writing a destination leaves unchanged -/

theorem onlyRegs_setV (s : State) (x : Reg) (b : Byte) : OnlyRegs (· = x) s (s.setV x b) :=
  ⟨fun _ hr => State.getV_setV_ne s b hr, fun _ => rfl, rfl, rfl, rfl, ⟨rfl, rfl⟩, ⟨fun _ _ => rfl, rfl⟩, sameBlock_refl s⟩

/-- OnlyRegs does not look at the count of draws (Log 6). -/
theorem OnlyRegs.takeDraw {P : Reg → Prop} {s t : State} (h : OnlyRegs P s t) : OnlyRegs P s t.takeDraw := h

/-- A result and its flag change the destination and VF only (R22, R23). -/
theorem onlyRegs_setResultFlag (s : State) (x : Reg) (result flag : Byte) :
    OnlyRegs (fun r => r = x ∨ r = vF) s (s.setResultFlag x result flag) := by
  refine ⟨fun r hr => ?_, fun _ => rfl, rfl, rfl, rfl, ⟨rfl, rfl⟩, ⟨fun _ _ => rfl, rfl⟩, sameBlock_refl s⟩
  obtain ⟨hx, hf⟩ := not_or.mp hr
  exact State.getV_setResultFlag_ne s _ _ hx hf

/-! ### Results and flags as numbers -/

/-- The words of family 8 (R72, R75). -/
theorem formXYN_eight_toNat (x y : Reg) (n : Fin 16) :
    (formXYN 0x8 x y n).toNat = 0x8000 + n.val + 256 * x.val + 16 * y.val := by
  rw [formXYN_toNat, show (0x8 : BitVec 4).toNat = 8 from rfl]
  omega

theorem flagByte_decide (p : Prop) [Decidable p] : flagByte (decide p) = if p then 1 else 0 :=
  if_congr decide_eq_true_iff rfl rfl

/-- A flag taken from a bit holds that bit's value (R22). -/
theorem flagByte_getLsbD_toNat (b : Byte) (k : Nat) : (flagByte (b.getLsbD k)).toNat = b.toNat / 2 ^ k % 2 := by
  rw [← Nat.toNat_testBit]
  show _ = (b.getLsbD k).toNat
  cases b.getLsbD k <;> rfl

theorem shiftRightFlag_toNat (src : Byte) : (shiftRightFlag src).toNat = src.toNat % 2 := by
  rw [shiftRightFlag, flagByte_getLsbD_toNat, pow_zero, Nat.div_one]

/-- Bit 7 is the top bit, so nothing is left above it. -/
theorem shiftLeftFlag_toNat (src : Byte) : (shiftLeftFlag src).toNat = src.toNat / 128 := by
  have := src.isLt
  rw [shiftLeftFlag, flagByte_getLsbD_toNat]
  omega

/-- The difference as a number, with 256 added first so that it is exact on naturals. -/
theorem byte_sub_toNat (a b : Byte) : (a - b).toNat = (a.toNat + 256 - b.toNat) % 256 := by
  have := b.isLt
  rw [BitVec.toNat_sub]
  omega

theorem byte_ushiftRight_one_toNat (a : Byte) : (a >>> 1).toNat = a.toNat / 2 := by
  rw [BitVec.toNat_ushiftRight, Nat.shiftRight_one]

theorem byte_shiftLeft_one_toNat (a : Byte) : (a <<< 1).toNat = a.toNat * 2 % 256 := by
  rw [BitVec.toNat_shiftLeft, Nat.shiftLeft_eq, pow_one]

/-! ### Instructions that write one register -/

/-- Settles O16: each ends in the state with the value put in Vx. -/
theorem loadsSetTheDestination : Obligations.LoadsSetTheDestination := fun _ x y nn =>
  ⟨⟨formXNN_toNat 6 x nn, _, rfl, State.getV_setV_same .., onlyRegs_setV .., rfl⟩,
    ⟨formXYN_eight_toNat x y 0, _, rfl, State.getV_setV_same .., onlyRegs_setV .., rfl⟩⟩

/-- Settles O17: addition of bytes is the sum mod 256, and only Vx is written. -/
theorem addImmediateWrapsWithoutFlag : Obligations.AddImmediateWrapsWithoutFlag := by
  intro s x nn
  refine ⟨formXNN_toNat 7 x nn, _, rfl, ?_, onlyRegs_setV .., rfl⟩
  rw [State.getV_setV_same, BitVec.toNat_add]

/-- An instruction that ends with a byte put in Vx shows that byte's bits there and changes nothing else. -/
theorem setV_bits {s : State} {i : Instr} {x : Reg} {b : Byte} {bit : Nat → Bool} (h : exec i s = .next (s.setV x b))
    (hbit : ∀ k, b.getLsbD k = bit k) :
    ∃ t, exec i s = .next t ∧ (∀ k, (t.getV x).getLsbD k = bit k) ∧ OnlyRegs (· = x) s t ∧ t.draws = s.draws :=
  ⟨_, h, fun k => by rw [State.getV_setV_same, hbit], onlyRegs_setV .., rfl⟩

/-- Settles O18: each operation acts on every bit by itself, and only Vx is written. -/
theorem logicIsBitwise : Obligations.LogicIsBitwise := fun _ x y =>
  ⟨⟨formXYN_eight_toNat x y 1, setV_bits rfl fun _ => BitVec.getLsbD_or⟩,
    ⟨formXYN_eight_toNat x y 2, setV_bits rfl fun _ => BitVec.getLsbD_and⟩,
    ⟨formXYN_eight_toNat x y 3, setV_bits rfl fun _ => BitVec.getLsbD_xor⟩⟩

/-- Settles O22: the state records the draw after Vx is written; nothing is used of the byte drawn. -/
theorem randomIsTheDrawUnderTheMask : Obligations.RandomIsTheDrawUnderTheMask := fun s x _ =>
  ⟨_, rfl, State.getV_setV_same .., rfl, (onlyRegs_setV s x _).takeDraw⟩

/-! ### Instructions that write a result and then a flag -/

section ResultAndFlag

variable {s : State} {i : Instr} {x : Reg} {a b result flag : Byte} {n : Nat}

theorem getV_setResultFlag_dest_toNat (h : result.toNat = n) (hx : x ≠ vF) :
    ((s.setResultFlag x result flag).getV x).toNat = n := by
  rw [State.getV_setResultFlag_dest s _ _ hx, h]

/-- An instruction that ends with the difference and not-borrow of two bytes reports both as numbers (R147, R148). -/
theorem difference_notBorrow (h : exec i s = .next (s.setResultFlag x (a - b) (notBorrowFlag a b))) :
    ∃ t, exec i s = .next t ∧ (x ≠ vF → (t.getV x).toNat = (a.toNat + 256 - b.toNat) % 256) ∧
      t.getV vF = (if a.toNat ≥ b.toNat then 1 else 0) ∧
      OnlyRegs (fun r => r = x ∨ r = vF) s t ∧ t.draws = s.draws :=
  ⟨_, h, getV_setResultFlag_dest_toNat (byte_sub_toNat a b), (State.getV_setResultFlag_vF ..).trans (flagByte_decide _),
    onlyRegs_setResultFlag .., rfl⟩

/-- An instruction that ends with a result and a flag, each known as a number, leaves the two numbers (R149, R150). -/
theorem result_flag_toNat {m : Nat} (h : exec i s = .next (s.setResultFlag x result flag)) (hn : result.toNat = n)
    (hm : flag.toNat = m) :
    ∃ t, exec i s = .next t ∧ (x ≠ vF → (t.getV x).toNat = n) ∧ (t.getV vF).toNat = m ∧
      OnlyRegs (fun r => r = x ∨ r = vF) s t ∧ t.draws = s.draws :=
  ⟨_, h, getV_setResultFlag_dest_toNat hn, by rw [State.getV_setResultFlag_vF, hm], onlyRegs_setResultFlag .., rfl⟩

end ResultAndFlag

/-- Settles O19: both operands are read before the sum is written, and the flag is written after it. -/
theorem addReportsCarry : Obligations.AddReportsCarry := fun _ _ _ =>
  ⟨_, rfl, getV_setResultFlag_dest_toNat (BitVec.toNat_add ..), (State.getV_setResultFlag_vF ..).trans (flagByte_decide _),
    onlyRegs_setResultFlag .., rfl⟩

/-- Settles O20: 8xy5 and 8xy7 differ in which register is the minuend. -/
theorem subtractionsReportNotBorrow : Obligations.SubtractionsReportNotBorrow := fun _ _ _ =>
  ⟨difference_notBorrow rfl, difference_notBorrow rfl⟩

/-- Settles O21: the source is fixed before Vx is written, and the bit shifted out is a bit of the source. -/
theorem shiftsReportTheBitShiftedOut : Obligations.ShiftsReportTheBitShiftedOut := by
  rintro s x y _ rfl
  exact ⟨result_flag_toNat rfl (byte_ushiftRight_one_toNat _) (shiftRightFlag_toNat _),
    result_flag_toNat rfl (byte_shiftLeft_one_toNat _) (shiftLeftFlag_toNat _)⟩

end Sys2Proof.Machine

/-! The index register and the memory transfers: what moving I leaves unchanged, and the completing and the raising end of
Fx33, Fx55 and Fx65 (R170 to R176). -/

namespace Sys2Proof.Machine

/-! ### Moving I -/

theorem onlyI_setI (s : State) (a : Word) : OnlyI s (s.setI a) :=
  ⟨fun _ => rfl, fun _ => rfl, rfl, rfl, ⟨rfl, rfl⟩, ⟨fun _ _ => rfl, rfl⟩, rfl, sameBlock_refl s⟩

/-- 16 bits hold every address, so storing one in I keeps its value (R25). -/
theorem ofNat_mod_toNat (n : Nat) : (BitVec.ofNat 16 (n % 4096)).toNat = n % 4096 :=
  Nat.mod_eq_of_lt (by omega)

/-- Settles O35: I holds the zero-extended address field. -/
theorem loadIndex : Obligations.LoadIndex := fun _ nnn =>
  ⟨formNNN_toNat 0xA nnn, _, rfl, zextAddr_toNat nnn, onlyI_setI ..⟩

/-- The words of family F (R72, R75). -/
theorem formXNN_F_toNat (x : Reg) (nn : Byte) : (formXNN 0xF x nn).toNat = 0xF000 + nn.toNat + 256 * x.val := by
  rw [formXNN_toNat, show (0xF : BitVec 4).toNat = 15 from rfl]
  omega

/-- Settles O36: I takes the reduced sum, and no register is written. -/
theorem addToIndexWraps : Obligations.AddToIndexWraps := fun _ x =>
  ⟨formXNN_F_toNat x 0x1E, _, rfl, ofNat_mod_toNat _, onlyI_setI ..⟩

/-- Where the font lies below 0x200, the address of any digit's glyph is below 4096 (R52, R172). -/
theorem glyph_lt_memSize {c : Config} (h : c.wellFormed) (digit : Byte) : c.fontBase.toNat + 5 * digit.toNat < 4096 := by
  have fits : c.fontBase.toNat + 80 ≤ 0x200 := h.1
  have := digit.isLt
  omega

/-- Settles O37: I takes the reduced address, and below 4096 the reduction changes nothing. -/
theorem fontAddressIsNotMasked : Obligations.FontAddressIsNotMasked := fun s x =>
  have hi := ofNat_mod_toNat (s.cfg.fontBase.toNat + 5 * (s.getV x).toNat)
  ⟨_, rfl, hi, fun h => hi.trans (Nat.mod_eq_of_lt (glyph_lt_memSize h _)), onlyI_setI ..⟩

/-! ### The ends of a transfer -/

section Transfer

variable {s : State} {x : Reg} {n : Nat}

/-- The bounds check of a transfer of n + 1 bytes passes exactly when its last byte is in memory (R51, R176). -/
theorem spanFits_succ_iff : spanFits (s.element 0) (n + 1) = true ↔ s.i.toNat + n ≤ 4095 := by
  rw [spanFits_iff, State.element]
  omega

/-- A transfer whose last byte is outside memory raises from the state before it, under ERROR_POLICY (R176, R223). -/
theorem outOfBounds_taken {i : Instr} {r : Except RunError State} {P : Prop} (hexec : exec i s = conclude (encode i) s r)
    (hcases : (spanFits (s.element 0) (n + 1) = true ∧ P) ∨
      (spanFits (s.element 0) (n + 1) = false ∧ r = .error (.outOfBounds 4096)))
    (hout : 4095 < s.i.toNat + n) :
    ∃ t, exec i s = .next t ∧ ErrorTaken s.cfg.errorPolicy
      { cause := .outOfBounds, ia := s.pc - 2, word := some (encode i), addr := some 4096 } s t := by
  rcases hcases with ⟨hfits, -⟩ | ⟨-, hr⟩
  · exact absurd (spanFits_succ_iff.mp hfits) (not_le.mpr hout)
  · exact ⟨_, hexec.trans (congrArg _ hr), dispatch_taken ..⟩

theorem onlyIAndBytes_writeBytes (s : State) (a : Nat) (bs : List Byte) :
    OnlyIAndBytes a bs.length s (s.writeBytes a bs) :=
  ⟨fun _ => rfl, fun _ => State.readByte_writeBytes_outside s a bs, rfl, rfl, ⟨rfl, rfl⟩, ⟨fun _ _ => rfl, rfl⟩, rfl,
    sameBlock_refl s⟩

/-- Moving I past a transfer is within the frame of a transfer. -/
theorem OnlyIAndBytes.advanceI {a : Nat} {t : State} (h : OnlyIAndBytes a n s t) (x : Reg) :
    OnlyIAndBytes a n s (t.advanceI x) := by
  unfold State.advanceI
  split
  · exact h
  · exact h

/-- I after Fx55 and Fx65 as a number (R174, R175, D21). -/
theorem advanceI_i_toNat (s : State) (x : Reg) : (s.advanceI x).i.toNat =
    if s.cfg.loadStoreQuirk then (s.i.toNat + x.val + 1) % 4096 else s.i.toNat := by
  rw [State.advanceI_i, apply_ite BitVec.toNat, ofNat_mod_toNat]

/-! ### Fx33 -/

theorem exec_ldBVx_of_fits (h : s.i.toNat + 2 ≤ 4095) :
    exec (.ldBVx x) s = .next (s.writeBytes s.i.toNat (bcdDigits (s.getV x))) := by
  rcases bcdBody_cases x s with ⟨-, hbody⟩ | ⟨hout, -⟩
  · exact congrArg (conclude (encode (.ldBVx x)) s) hbody
  · exact absurd (spanFits_succ_iff.mpr h) (by simp [hout])

/-- The byte stored at I + k is the decimal digit k of the register (R173). -/
theorem readByte_writeBcd_toNat {b : Byte} (h : s.i.toNat + 2 ≤ 4095) (k : Nat) (hk : k < 3) {digit : Nat}
    (hdigit : (bcdDigits b)[k]'hk = BitVec.ofNat 8 digit) (hlt : digit < 256) :
    ((s.writeBytes s.i.toNat (bcdDigits b)).readByte (s.i.toNat + k)).toNat = digit := by
  have inside : s.i.toNat + (bcdDigits b).length ≤ memSize := Nat.succ_le_succ h
  rw [State.readByte_writeBytes_inside s _ (bcdDigits b) k hk inside, hdigit]
  exact Nat.mod_eq_of_lt hlt

end Transfer

/-- Settles O38: the three bytes written are the digits of Vx, each below 256, and the frame is that of the write. -/
theorem bcdStoresThreeDigits : Obligations.BcdStoresThreeDigits := by
  refine fun s x => ⟨formXNN_F_toNat x 0x33, fun h => ?_, fun h => ?_⟩
  · have := (s.getV x).isLt
    exact ⟨_, exec_ldBVx_of_fits h, readByte_writeBcd_toNat h 0 (by decide) rfl (by omega),
      readByte_writeBcd_toNat h 1 (by decide) rfl (by omega), readByte_writeBcd_toNat h 2 (by decide) rfl (by omega),
      rfl, onlyIAndBytes_writeBytes ..⟩
  · exact outOfBounds_taken rfl (bcdBody_cases x s) h

/-! ### Fx55 and Fx65 -/

/-- Fx55 changes the x + 1 bytes from I on, and I (R174). -/
theorem onlyIAndBytes_stored (s : State) (x : Reg) : OnlyIAndBytes (s.element 0) (x.val + 1) s (s.stored x) := by
  have written := onlyIAndBytes_writeBytes s (s.element 0) (s.regsUpTo x)
  rw [regsUpTo_length] at written
  exact written.advanceI x

/-- Settles O39: the bytes written are V0..Vx, and I moves after them. -/
theorem storeRegistersToMemory : Obligations.StoreRegistersToMemory := by
  refine fun s x => ⟨fun h => ?_, fun h => ?_⟩
  · exact ⟨_, exec_ldMemIVx_of_fits h, fun _ => State.readByte_stored h, advanceI_i_toNat _ x, onlyIAndBytes_stored s x⟩
  · exact outOfBounds_taken rfl (storeBody_cases x s) h

/-- Settles O40: registers up to x take the bytes read before any of them is written, and I moves after them. -/
theorem loadRegistersFromMemory : Obligations.LoadRegistersFromMemory := by
  refine fun s x => ⟨fun h => ?_, fun h => ?_⟩
  · refine ⟨_, exec_ldVxMemI_of_fits h, fun r hr => ?_, advanceI_i_toNat _ x, fun r hr => ?_, State.readByte_advanceI _ x,
      State.advanceI_pc _ x, State.advanceI_stack _ x, ⟨State.advanceI_dt _ x, State.advanceI_st _ x⟩,
      ⟨fun _ _ => ?_, State.advanceI_drawFlag _ x⟩, State.advanceI_draws _ x,
      (sameBlock_advanceI _ _ x).mpr (sameBlock_refl s)⟩
    · rw [State.getV_advanceI, getV_loadedRegs_within s hr]
    · rw [State.getV_advanceI, getV_loadedRegs_above s hr]
    · rw [State.advanceI_disp]
  · exact outOfBounds_taken rfl (loadBody_cases x s) h

end Sys2Proof.Machine

/-! Keys and timers: the two ends of a key skip, the key poll, and what a timer set holds after the next tick boundary
(R190 to R196, R231). -/

namespace Sys2Proof.Machine

/-! ### Key skips -/

section KeySkip

variable {s : State} {x : Reg} {k : Key} {i : Instr} {r : Except RunError State} {test : Key → Bool}
  (hexec : exec i s = conclude (encode i) s r)
  (hcases : (∃ k : Key, (s.getV x).toNat = k.val ∧ r = .ok (s.skipIf (test k))) ∨
    (16 ≤ (s.getV x).toNat ∧ r = .error (.outOfBounds (s.getV x).toNat)))

include hexec hcases

/-- Where Vx names a key, a skip tests that key (R196). -/
theorem exec_skipIf_of_key (h : (s.getV x).toNat = k.val) : exec i s = .next (s.skipIf (test k)) := by
  rcases hcases with ⟨k', hk', hr⟩ | ⟨hout, -⟩
  · obtain rfl : k' = k := Fin.ext (hk'.symm.trans h)
    exact hexec.trans (congrArg _ hr)
  · exact absurd k.isLt (not_lt.mpr (h ▸ hout))

/-- Where Vx names no key, its full value is raised from the state before the skip, under ERROR_POLICY (R196, R223). -/
theorem keyOutOfBounds_taken (hout : 15 < (s.getV x).toNat) :
    ∃ t, exec i s = .next t ∧ ErrorTaken s.cfg.errorPolicy
      { cause := .outOfBounds, ia := s.pc - 2, word := some (encode i), addr := some (s.getV x).toNat } s t := by
  rcases hcases with ⟨k, hk, -⟩ | ⟨-, hr⟩
  · exact absurd k.isLt (not_lt.mpr (hk ▸ hout))
  · exact ⟨_, hexec.trans (congrArg _ hr), dispatch_taken ..⟩

end KeySkip

/-- Settles O41: both skips test the key Vx names, and a skip changes PC only. -/
theorem keySkips : Obligations.KeySkips := fun s x _ h =>
  ⟨skip_of_test (exec_skipIf_of_key rfl (skipPressed_cases x s) h) Iff.rfl,
    skip_of_test (exec_skipIf_of_key rfl (skipReleased_cases x s) h) (Bool.not_eq_true' _).to_iff⟩

/-- Settles O42: both skips check the full value of Vx before they test a key. -/
theorem keyIndexAboveFifteenRaises : Obligations.KeyIndexAboveFifteenRaises := fun s x h =>
  ⟨keyOutOfBounds_taken rfl (skipPressed_cases x s) h, keyOutOfBounds_taken rfl (skipReleased_cases x s) h⟩

/-! ### The key poll -/

/-- A byte holds every key's index. -/
theorem key_byte_toNat (k : Key) : (BitVec.ofNat 8 k.val).toNat = k.val :=
  Nat.mod_eq_of_lt (k.isLt.trans (by decide))

/-- Settles O44: the poll takes some pressed key or finds none, and each excludes the other clause's hypothesis. -/
theorem keyWaitPolls : Obligations.KeyWaitPolls := by
  intro s x
  rcases pollKey_cases (Config.keyChoice s.draws) x s with ⟨k, hk, hpoll⟩ | ⟨hnone, hpoll⟩
  · have index : (((s.setV x (BitVec.ofNat 8 k.val)).takeDraw).getV x).toNat = k.val := by
      rw [State.getV_takeDraw, State.getV_setV_same, key_byte_toNat]
    exact ⟨fun _ => ⟨_, congrArg Host.Outcome.next hpoll, ⟨k, hk, index⟩, rfl, (onlyRegs_setV ..).takeDraw⟩,
      fun hnone => absurd hk (by simp [hnone k])⟩
  · exact ⟨fun ⟨k, hk⟩ => absurd hk (by simp [hnone k]), fun _ => ⟨_, congrArg Host.Outcome.next hpoll, rfl, onlyPc_setPc ..⟩⟩

/-! ### Timers -/

/-- The countdown as a number: truncated subtraction is its floor at 0 (R231). -/
theorem countDown_toNat (b : Byte) : (countDown b).toNat = b.toNat - 1 := by
  unfold countDown
  split
  next h => subst h; rfl
  next h => bv_omega

/-- The sound gate after a tick boundary is on exactly when ST, counted down, is above 0 (R231). -/
theorem tickBoundary_soundGate_iff (s : State) : (tickBoundary s).soundGate = true ↔ 0 < s.st.toNat - 1 := by
  rw [← countDown_toNat, BitVec.toNat_pos, BitVec.pos_iff_ne_zero]
  exact decide_eq_true_iff

/-- Settles O43: each writes one component, and the tick boundary counts down the timer it finds. -/
theorem timersAreReadAndSet : Obligations.TimersAreReadAndSet := fun s x =>
  ⟨⟨formXNN_F_toNat x 0x07, _, rfl, State.getV_setV_same .., onlyRegs_setV .., rfl⟩,
    ⟨formXNN_F_toNat x 0x15, _, rfl, rfl, rfl, fun _ => rfl, fun _ => rfl, rfl, rfl, rfl, ⟨fun _ _ => rfl, rfl⟩, rfl,
      sameBlock_refl s, countDown_toNat _⟩,
    ⟨formXNN_F_toNat x 0x18, _, rfl, rfl, rfl, fun _ => rfl, fun _ => rfl, rfl, rfl, rfl, ⟨fun _ _ => rfl, rfl⟩, rfl,
      sameBlock_refl s, countDown_toNat _, tickBoundary_soundGate_iff _⟩⟩

end Sys2Proof.Machine

/-! The host's turns, the run states and the tick boundary: the moves R234 gives each event, the one halt a turn of the core
can bring, and what a key write, a snapshot and a boundary change (R223, R231 to R239). -/

namespace Sys2Proof.Machine

/-! ### The tick boundary -/

/-- Settles O52: both timers go through the same countdown, and the gate looks at the new ST. -/
theorem tickBoundaryCountsDown : Obligations.TickBoundaryCountsDown := fun s =>
  ⟨countDown_toNat _, countDown_toNat _, tickBoundary_soundGate_iff s⟩

theorem tickBoundary_hostOut (s : State) : (tickBoundary s).hostOut =
    s.hostOut ++ [.soundGate (tickBoundary s).soundGate] ++ (if s.drawFlag then [.display s.disp] else []) := rfl

/-- Settles O53: the boundary's replies are the gate and then, under draw_flag, the display; it writes nothing else but the
timers, the gate, draw_flag and the quota counter. -/
theorem tickBoundaryEmits : Obligations.TickBoundaryEmits := by
  refine fun s => ⟨fun h => ?_, fun h => ?_, rfl, rfl, fun _ => rfl, fun _ => rfl, rfl, rfl, rfl, rfl, rfl⟩
  · simp [tickBoundary_hostOut, h]
  · simp [tickBoundary_hostOut, h]

/-! ### The moves of the host's events -/

/-- The run states in which R234 gives an event a move; Run needs an accepted Load as well. -/
def HostEvent.HasMove (rs : RunState) (loaded : Bool) : HostEvent → Prop
  | .load _ => rs = .stopped
  | .run => rs = .stopped ∧ loaded = true
  | .pauseToggle => rs = .running ∨ rs = .paused
  | .stop | .setKey _ _ | .snapshot => True

/-- An event without a row in R234 is refused by name (Log 11). -/
theorem hostTurn_of_not_hasMove {e : HostEvent} {s : State} (h : ¬ e.HasMove s.runState s.loaded) :
    hostTurn e s = .refused (.noMove e s.runState) := by
  refine (hostTurn_next_or_noMove e s).resolve_left fun ⟨t, ht⟩ => h ?_
  rcases hostTurn_cases ht with ⟨_, rfl, hr, -, -⟩ | ⟨_, rfl, hr, -, -⟩ | ⟨rfl, hr, hl, -⟩ | ⟨rfl, hr, -⟩ | ⟨rfl, hr, -⟩ |
    ⟨rfl, -⟩ | ⟨_, _, rfl, -⟩ | ⟨rfl, -⟩
  · exact hr
  · exact hr
  · exact ⟨hr, hl⟩
  · exact .inl hr
  · exact .inr hr
  all_goals trivial

section HostTurn

variable {s : State} {e : HostEvent} {rest : List Turn} (hturn : s.turns = .host e :: rest)

include hturn

theorem step_of_host_turn : step s = hostTurn e { s with turns := rest } := by
  simp [step, nextTurn, hturn]

theorem step_of_not_hasMove (h : ¬ e.HasMove s.runState s.loaded) : step s = .refused (.noMove e s.runState) :=
  (step_of_host_turn hturn).trans (hostTurn_of_not_hasMove h)

end HostTurn

/-- Load, accepted or not, is no move between run states (R234, R262). -/
theorem loadProgram_runState (bytes : List Byte) (s : State) : (loadProgram bytes s).runState = s.runState := by
  unfold loadProgram
  split <;> rfl

/-! ### The run state after a turn of the core or of the frame driver -/

/-- The block stays in its run state with the fault it holds, or halts: a Running block is Faulted, and the fault is the one
report logged (R223, R234). -/
def StaysOrHalts (s t : State) : Prop :=
  (t.runState = s.runState ∧ t.fault = s.fault) ∨
  (s.runState = .running ∧ t.runState = .faulted ∧ ∃ r, t.fault = some r ∧ t.errorLog = s.errorLog ++ [r])

/-- The tick's bookkeeping before and after a turn touches none of run state, fault and error_log (Log 9). -/
theorem StaysOrHalts.of_onlyTick {s u v t : State} (before : OnlyTick s u) (h : StaysOrHalts u v) (after : OnlyTick v t) :
    StaysOrHalts s t := by
  obtain ⟨_, _, _, _, _, _, rfl⟩ := before
  obtain ⟨_, _, _, _, _, _, rfl⟩ := after
  exact h

theorem OnlyTick.staysOrHalts {s t : State} (h : OnlyTick s t) : StaysOrHalts s t :=
  .of_onlyTick (.refl s) (.inl ⟨rfl, rfl⟩) h

/-- The policy of an error decides between staying and halting (R223). -/
theorem dispatch_staysOrHalts {s : State} (hrun : s.runState = .running) (p : ErrorPolicy) (e : RunError) (ia : Word)
    (w : Option Word) : StaysOrHalts s (dispatch p e ia w s) := by
  cases p with
  | halt => exact .inr ⟨hrun, rfl, _, rfl, rfl⟩
  | skip => exact .inl ⟨rfl, rfl⟩

theorem exec_staysOrHalts {i : Instr} {s t : State} (hrun : s.runState = .running) (h : exec i s = .next t) :
    StaysOrHalts s t := by
  rcases exec_next_cases h with ⟨-, -, -, hstate, hfault, -⟩ | ⟨e, -, rfl⟩
  · exact .inl ⟨hstate, hfault⟩
  · exact dispatch_staysOrHalts hrun ..

/-- A cycle raises at most one error: in the fetch, for an unknown word, or in the instruction (R82). -/
theorem cycle_staysOrHalts {s t : State} (hrun : s.runState = .running) (h : cycle s = .next t) : StaysOrHalts s t := by
  rcases cycle_cases s with ⟨a, -, -, e⟩ | ⟨i, -, -, e⟩ | ⟨c, -, -, e⟩
  · cases e.symm.trans h
    exact dispatch_staysOrHalts hrun ..
  · exact exec_staysOrHalts (s := s.setPc (s.pc + 2)) hrun (e ▸ h)
  · cases e.symm.trans h
    exact dispatch_staysOrHalts (s := s.setPc (s.pc + 2)) hrun ..

theorem coreTurn_staysOrHalts (s : State) : ∃ t, coreTurn s = .next t ∧ StaysOrHalts s t := by
  rcases coreTurn_cases s with ⟨hrun, e⟩ | ⟨-, e⟩
  · have begun : OnlyTick s (takeFromQuota (closeTick s)) := (OnlyTick.of_closeTick s).trans (.of_takeFromQuota _)
    obtain ⟨u, hu⟩ := cycle_next (takeFromQuota (closeTick s))
    have running : (takeFromQuota (closeTick s)).runState = .running := (closeTick_runState s).trans hrun
    exact ⟨settle u, by rw [e, hu, andThen_next], .of_onlyTick begun (cycle_staysOrHalts running hu) (.of_settle u)⟩
  · exact ⟨_, e, .inl ⟨rfl, rfl⟩⟩

theorem OnlyTick.of_frameTurn (s : State) : OnlyTick s (frameTurn s) := by
  rcases frameTurn_cases s with ⟨-, e⟩ | ⟨-, e⟩
  · rw [e]; exact of_closeTick s
  · exact ⟨_, _, _, _, _, _, e⟩

/-- The row of R234 for the errors: only a turn of the core halts the block, and it does so by one report. -/
theorem step_staysOrHalts {s : State} (hcore : ∀ e rest, s.turns ≠ .host e :: rest) :
    ∃ t, step s = .next t ∧ StaysOrHalts s t := by
  rcases step_cases s with ⟨-, e⟩ | ⟨rest, -, e⟩ | ⟨rest, -, e⟩ | ⟨ev, rest, hturn, -⟩
  · rw [e]; exact coreTurn_staysOrHalts s
  · rw [e]; exact coreTurn_staysOrHalts { s with turns := rest }
  · exact ⟨_, e, (OnlyTick.of_frameTurn { s with turns := rest }).staysOrHalts⟩
  · exact absurd hturn (hcore ev rest)

/-- Settles O55: where R234 has a row the event's move is that row, where it has none the event is refused, and without the
host the block stays as it is or halts. -/
theorem runStatesMoveAsTabulated : Obligations.RunStatesMoveAsTabulated := by
  refine fun s => ⟨fun bytes rest hturn => ⟨fun hr => ?_, step_of_not_hasMove hturn⟩,
    fun rest hturn => ⟨fun ⟨hr, hl⟩ => ?_, step_of_not_hasMove hturn⟩,
    fun rest hturn => ⟨fun hr => ?_, fun hr => ?_, fun hr => step_of_not_hasMove hturn ?_⟩,
    fun rest hturn => ⟨_, step_of_host_turn hturn, rfl⟩, step_staysOrHalts⟩
  · have hstep : step s = .next (loadProgram bytes { s with turns := rest }) := by simp [step_of_host_turn hturn, hostTurn, hr]
    exact ⟨_, hstep, (loadProgram_runState ..).trans hr⟩
  · simp [step_of_host_turn hturn, hostTurn, hr, hl]
  · simp [step_of_host_turn hturn, hostTurn, hr]
  · simp [step_of_host_turn hturn, hostTurn, hr]
  · rcases hr with hr | hr <;> simp [HostEvent.HasMove, hr]

/-! ### Key writes and snapshots -/

theorem setKey_same (k : Key) (b : Bool) (s : State) : (setKey k b s).keys[k.val] = b := Vector.getElem_set_self ..

theorem setKey_ne {j k : Key} (h : j ≠ k) (b : Bool) (s : State) : (setKey k b s).keys[j.val] = s.keys[j.val] :=
  Vector.getElem_set_ne k.isLt j.isLt fun e => h (Fin.ext e.symm)

theorem exec_skp_of_key {s : State} {x : Reg} {k : Key} (h : (s.getV x).toNat = k.val) :
    exec (.skp x) s = .next (s.skipIf s.keys[k.val]) :=
  exec_skipIf_of_key rfl (skipPressed_cases x s) h

/-- Settles O58: SetKey writes one slot of the key array, and Ex9E tests the slot that Vx names. -/
theorem keyWritesAreSeenByTheNextPoll : Obligations.KeyWritesAreSeenByTheNextPoll := by
  refine fun s k b rest hturn => ⟨setKey k b { s with turns := rest }, step_of_host_turn hturn, setKey_same ..,
    fun j hj => setKey_ne hj .., rfl, fun x hx => ?_⟩
  rw [exec_skp_of_key (s := setKey k b { s with turns := rest }) hx, setKey_same]
  rfl

/-- Settles O59: the snapshot copies the components and reads memory address by address; only the reply is new. -/
theorem snapshotReadsAndChangesNothing : Obligations.SnapshotReadsAndChangesNothing := by
  refine fun s rest hturn => ⟨snapshotOf s, step_of_host_turn hturn, rfl, rfl, rfl, rfl, rfl, ?_, fun a h => ?_⟩
  · simp [snapshotOf, memSize]
  · simp [snapshotOf]

end Sys2Proof.Machine

/-! Load in Stopped: the program copied to 0x200 on, or refused for its size (R234, R235, R262). -/

namespace Sys2Proof.Machine

/-! ### What Load does, by the size of the program -/

section LoadProgram

variable {bytes : List Byte} (s : State)

theorem loadProgram_of_fits (h : bytes.length ≤ 3584) :
    loadProgram bytes s = State.reply { s.writeBytes 0x200 bytes with loaded := true } .loadAccepted :=
  ((loadProgram_cases bytes s).resolve_left fun ⟨hlarge, _⟩ => hlarge.not_ge h).2

theorem loadProgram_of_oversize (h : 3584 < bytes.length) :
    loadProgram bytes s = s.reply (.programTooLarge bytes.length) :=
  ((loadProgram_cases bytes s).resolve_right fun ⟨hfits, _⟩ => hfits.not_gt h).2

end LoadProgram

/-- Load has a move in Stopped (R234). -/
theorem step_of_load {s : State} {bytes : List Byte} {rest : List Turn} (hturn : s.turns = .host (.load bytes) :: rest)
    (hr : s.runState = .stopped) : step s = .next (loadProgram bytes { s with turns := rest }) := by
  simp [step_of_host_turn hturn, hostTurn, hr]

/-- Settles O56: an accepted Load is one write of the program's bytes, which ends within memory as 0x200 + 3584 = 4096. -/
theorem loadCopiesTheProgram : Obligations.LoadCopiesTheProgram := by
  intro s bytes rest hturn hr
  rw [step_of_load hturn hr]
  refine ⟨fun hfits => ?_, fun hlarge => by rw [loadProgram_of_oversize _ hlarge]; rfl⟩
  have hin : 0x200 + bytes.length ≤ memSize := by simp only [memSize]; omega
  rw [loadProgram_of_fits _ hfits]
  exact ⟨_, rfl, fun k hk => s.readByte_writeBytes_inside 0x200 bytes k hk hin,
    fun _ hout => s.readByte_writeBytes_outside 0x200 bytes hout, rfl⟩

end Sys2Proof.Machine
